-- ==== Sys2Proof/Word.lean ====
section
/-! DEFINITION. The scalar types carried on the ports (spec/10_state.md R22, spec/00_scope.md R7, R11): every value is
unsigned, bit 0 is the least significant. Operations on them stand in Machine/Nibble.lean and Machine/Operands.lean. -/

namespace Sys2Proof

/-- R22: an unsigned 8-bit value. -/
abbrev Byte := BitVec 8

/-- R22: an unsigned value in [0, 15]. The width makes the range hold (R27). -/
abbrev Nibble := BitVec 4

/-- R22: a Nibble that says which virtual cable; all 16 values are valid. -/
abbrev CableNumber := Nibble

/-- R22: a Nibble, the MIDI channel field as the wire carries it (R141). -/
abbrev Channel := Nibble

/-- R26: the low nibble of packet byte 0. -/
abbrev CodeIndexNumber := Nibble

/-- R22: a MIDI data field, an unsigned value in [0, 127]. -/
abbrev U7 := BitVec 7

/-- R64: the 5-bit code that selects a Message variant at the ports. -/
abbrev KindCode := BitVec 5

end Sys2Proof
end

