-- ==== Sys2Proof/Config.lean ====
section
/-! DEFINITION. What an implementation fixes (spec/00_scope.md R8 to R10) and the free values the spec leaves as draws
(spec/93_implementation_defined.md U1 to U4). -/

namespace Sys2Proof

/-- R9, the parameter `PAD_CHECK`: what decode does with a non-zero unused data byte. -/
inductive PadCheck where
  | ignore
  | reject
deriving DecidableEq, Repr

/-- R8, R9, R32: the two parameters that select behaviour. An instance holds them for its life; `State` carries them as
plain data that no step writes, so that a claim names the values it assumes (92 D8, D9; log 6). -/
structure Params where
  /-- `DECODE_STUB` (R8). -/
  decodeStub : Bool
  /-- `PAD_CHECK` (R9). -/
  padCheck : PadCheck
deriving DecidableEq, Repr

/-- The defaults of R8 and R9. -/
def Params.default : Params := { decodeStub := false, padCheck := .ignore }

namespace Config

/-- R10 `ENC_LATENCY`: OPEN. The model is untimed and reads it nowhere (log 8). -/
opaque encLatency : Nat

/-- R10 `DEC_LATENCY`: OPEN. The model is untimed and reads it nowhere (log 8). -/
opaque decLatency : Nat

/-- R10 `NIB_LATENCY`: OPEN. The model is untimed and reads it nowhere (log 8). -/
opaque nibLatency : Nat

/-- U1: byte `i` of `enc_pkt` when `enc_ok = 0`, at draw `n`: any value (R243; log 7). -/
opaque freeEncPkt (n : Nat) (i : Fin 4) : Byte

/-- U2: `dec_cable` when `dec_ok = 0`, at draw `n`: any value (R29; log 7). -/
opaque freeDecCable (n : Nat) : CableNumber

/-- U2: `dec_kind` when `dec_ok = 0`, at draw `n`: any value (R29; log 7). -/
opaque freeDecKind (n : Nat) : KindCode

/-- U2, U3: `dec_chan` when `dec_ok = 0` or the kind is a system kind, at draw `n`: any value (R29; log 7). -/
opaque freeDecChan (n : Nat) : Channel

/-- U2, U3: `dec_d1` when `dec_ok = 0` or the kind has no data byte, at draw `n`: any value (R29; log 7). -/
opaque freeDecD1 (n : Nat) : U7

/-- U2, U3: `dec_d2` when `dec_ok = 0` or the kind has fewer than two data bytes, at draw `n`: any value (R29; log 7). -/
opaque freeDecD2 (n : Nat) : U7

/-- U4: `nm_nib` when `nm_ok = 0`, at draw `n`: any value (R241; log 7). -/
opaque freeNmNib (n : Nat) : Nibble

end Config

end Sys2Proof
end

