-- ==== Sys2Proof/Machine/Nibble.lean ====
section
/-! DEFINITION. The Nibble and Cable Number operations as functions of their inputs (spec/40_nibble.md). The ports that
run them stand in Machine/NibblePorts.lean. -/

namespace Sys2Proof

/-- R12 `zext_8`. -/
def zext8 {w : Nat} (v : BitVec w) : Byte := v.setWidth 8

/-- `b[7:4]` (R11). -/
def highNibble (b : Byte) : Nibble := (b >>> 4).setWidth 4

/-- `b[3:0]` (R11). -/
def lowNibble (b : Byte) : Nibble := (b &&& 0x0F#8).setWidth 4

/-- R100 NSPLIT: the high and the low nibble of a byte. Total. -/
def split (b : Byte) : Nibble × Nibble := (highNibble b, lowNibble b)

/-- R101 NCOMB: high then low, into one byte. Total. -/
def combine (high low : Nibble) : Byte := (zext8 high <<< 4) ||| zext8 low

/-- R102 NMAKE: checked construction; `none` is `OutOfRange`, never a truncation. -/
def makeNibble (v : Byte) : Option Nibble := if 15 < v.toNat then none else some (v.setWidth 4)

/-- R104: every Nibble is a Cable Number with the same value. -/
def cableOfNibble (n : Nibble) : CableNumber := n

/-- R105: the same conversion back. -/
def nibbleOfCable (c : CableNumber) : Nibble := c

end Sys2Proof
end

