-- ==== Sys2Proof/Syntax.lean ====
section
/-! DEFINITION. The message set, the instructions (one per row of spec/opcode_table.json), the values on the ports, the
errors and the invocations. What each means stands in Machine/. -/

namespace Sys2Proof

/-- R64: the 17 message kinds, one per row of the opcode table. -/
inductive Kind where
  | noteOff | noteOn | polyKeyPressure | controlChange | programChange | channelPressure | pitchBend
  | mtcQuarterFrame | songPosition | songSelect | tuneRequest
  | timingClock | start | continue_ | stop | activeSensing | systemReset
deriving DecidableEq, Repr

/-- R23: the 0, 1 or 2 data bytes after a status byte. -/
inductive Payload where
  | empty
  | singleByte (d1 : U7)
  | doubleByte (d1 d2 : U7)
deriving DecidableEq, Repr

/-- R25: the pair the Raw encoder makes of a Message; internal to the encode path, on no port. -/
structure Raw where
  status : Byte
  payload : Payload
deriving DecidableEq, Repr

/-- R24: the closed union of 17 variants, each with exactly these fields in this order. -/
inductive Message where
  | noteOff (channel : Channel) (note velocity : U7)
  | noteOn (channel : Channel) (note velocity : U7)
  | polyKeyPressure (channel : Channel) (note pressure : U7)
  | controlChange (channel : Channel) (controller value : U7)
  | programChange (channel : Channel) (program : U7)
  | channelPressure (channel : Channel) (pressure : U7)
  | pitchBend (channel : Channel) (lsb msb : U7)
  | mtcQuarterFrame (data : U7)
  | songPosition (lsb msb : U7)
  | songSelect (song : U7)
  | tuneRequest
  | timingClock
  | start
  | continue_
  | stop
  | activeSensing
  | systemReset
deriving DecidableEq, Repr

/-- R27: the record the packet carries. -/
structure UsbMidiEventPacket where
  cableNumber : CableNumber
  message : Message
deriving DecidableEq, Repr

/-- One constructor per row of the opcode table (format `PKT`, R60): the row's `c` field and the fields of its Message
variant. An instruction is one message carried for one cable; the port it is carried on is in `State` (log 2). -/
inductive Instr where
  | noteOff (cable : CableNumber) (channel : Channel) (note velocity : U7)
  | noteOn (cable : CableNumber) (channel : Channel) (note velocity : U7)
  | polyKeyPressure (cable : CableNumber) (channel : Channel) (note pressure : U7)
  | controlChange (cable : CableNumber) (channel : Channel) (controller value : U7)
  | programChange (cable : CableNumber) (channel : Channel) (program : U7)
  | channelPressure (cable : CableNumber) (channel : Channel) (pressure : U7)
  | pitchBend (cable : CableNumber) (channel : Channel) (lsb msb : U7)
  | mtcQuarterFrame (cable : CableNumber) (data : U7)
  | songPosition (cable : CableNumber) (lsb msb : U7)
  | songSelect (cable : CableNumber) (song : U7)
  | tuneRequest (cable : CableNumber)
  | timingClock (cable : CableNumber)
  | start (cable : CableNumber)
  | continue_ (cable : CableNumber)
  | stop (cable : CableNumber)
  | activeSensing (cable : CableNumber)
  | systemReset (cable : CableNumber)
deriving DecidableEq, Repr

/-- R13, R41: the four bytes of a packet, in the source's byte order. -/
structure Packet where
  b0 : Byte
  b1 : Byte
  b2 : Byte
  b3 : Byte
deriving DecidableEq, Repr

/-- R28: the inputs of the encode port. -/
structure EncIn where
  cable : CableNumber
  kind : KindCode
  chan : Channel
  d1 : U7
  d2 : U7
deriving DecidableEq, Repr

/-- R242: why decode rejects a packet. The port's `dec_reason` codes stand in Machine/Flags.lean. -/
inductive Reason where
  | stub
  | cin
  | status
  | data
  | pad
deriving DecidableEq, Repr

/-- R240: the block's three error kinds. -/
inductive BlockError where
  | outOfRange (v : Byte)
  | invalidPacket (r : Reason)
  | invalidKind (k : KindCode)
deriving DecidableEq, Repr

/-- R28 to R30: the five ports. -/
inductive Port where
  | enc
  | dec
  | nsplit
  | ncomb
  | nmake
deriving DecidableEq, Repr

/-- R18: one use of one port, with the inputs applied to it. -/
inductive Invocation where
  | enc (inputs : EncIn)
  | dec (pkt : Packet)
  | nsplit (b : Byte)
  | ncomb (high low : Nibble)
  | nmake (v : Byte)
deriving DecidableEq, Repr

/-- R15: what an invocation returns to its caller, `Ok(value)` or `Err(error)`. -/
inductive Result where
  | packet (pkt : Packet)
  | event (e : UsbMidiEventPacket)
  | nibbles (high low : Nibble)
  | byte (b : Byte)
  | nibble (n : Nibble)
  | error (e : BlockError)
deriving DecidableEq, Repr

/-- R72: one line of a listing, its numbers as written (not yet checked against a width). -/
inductive Line where
  | enc (cable : Nat) (kind : Kind) (fields : List Nat)
  | dec (b0 b1 b2 b3 : Nat)
  | nsplit (b : Nat)
  | ncomb (high low : Nat)
  | nmake (v : Nat)
deriving DecidableEq, Repr

/-- R72, U14: why a line is no invocation. -/
inductive AsmError where
  /-- the text is not a line of the syntax -/
  | malformed
  /-- the field count is not the variant's -/
  | fieldCount
  /-- a value is outside its field's width -/
  | fieldWidth
deriving DecidableEq, Repr

end Sys2Proof
end

