-- ==== Sys2Proof/Machine/Operands.lean ====
section
/-! DEFINITION. The operand forms: which fields each message kind has, its kind code, its payload shape, and how the
variant's fields map to the descriptor `(kind, chan, d1, d2)` (spec/30_encoding.md R64, R65; spec/41_messages.md R139). -/

namespace Sys2Proof

/-- R64: the 5-bit kind code of a kind. Channel-voice kinds are `0b0_hhhh` (the status high nibble), system kinds
`0b1_llll` (the status is `0xF0 | llll`). -/
def Kind.code : Kind → KindCode
  | .noteOff => 0x08#5
  | .noteOn => 0x09#5
  | .polyKeyPressure => 0x0A#5
  | .controlChange => 0x0B#5
  | .programChange => 0x0C#5
  | .channelPressure => 0x0D#5
  | .pitchBend => 0x0E#5
  | .mtcQuarterFrame => 0x11#5
  | .songPosition => 0x12#5
  | .songSelect => 0x13#5
  | .tuneRequest => 0x16#5
  | .timingClock => 0x18#5
  | .start => 0x1A#5
  | .continue_ => 0x1B#5
  | .stop => 0x1C#5
  | .activeSensing => 0x1E#5
  | .systemReset => 0x1F#5

/-- R64, R70: the kind a kind code names; `none` for the 15 undefined codes. -/
def Kind.ofCode (c : KindCode) : Option Kind :=
  match c.toNat with
  | 0x08 => some .noteOff
  | 0x09 => some .noteOn
  | 0x0A => some .polyKeyPressure
  | 0x0B => some .controlChange
  | 0x0C => some .programChange
  | 0x0D => some .channelPressure
  | 0x0E => some .pitchBend
  | 0x11 => some .mtcQuarterFrame
  | 0x12 => some .songPosition
  | 0x13 => some .songSelect
  | 0x16 => some .tuneRequest
  | 0x18 => some .timingClock
  | 0x1A => some .start
  | 0x1B => some .continue_
  | 0x1C => some .stop
  | 0x1E => some .activeSensing
  | 0x1F => some .systemReset
  | _ => none

/-- R18, R24: the channel-voice kinds, whose status byte carries a channel. -/
def Kind.isChannelVoice : Kind → Bool
  | .noteOff | .noteOn | .polyKeyPressure | .controlChange | .programChange | .channelPressure | .pitchBend => true
  | .mtcQuarterFrame | .songPosition | .songSelect | .tuneRequest => false
  | .timingClock | .start | .continue_ | .stop | .activeSensing | .systemReset => false

/-- R139, R200 `NDATA(kind)`: how many data bytes the kind's payload has. -/
def Kind.ndata : Kind → Nat
  | .noteOff | .noteOn | .polyKeyPressure | .controlChange | .pitchBend | .songPosition => 2
  | .programChange | .channelPressure | .mtcQuarterFrame | .songSelect => 1
  | .tuneRequest | .timingClock | .start | .continue_ | .stop | .activeSensing | .systemReset => 0

/-- R72: how many fields a line of this kind has, the channel among them. -/
def Kind.fieldCount (k : Kind) : Nat := (if k.isChannelVoice then 1 else 0) + k.ndata

/-- The kind of a Message variant (R64). -/
def Message.kind : Message → Kind
  | .noteOff .. => .noteOff
  | .noteOn .. => .noteOn
  | .polyKeyPressure .. => .polyKeyPressure
  | .controlChange .. => .controlChange
  | .programChange .. => .programChange
  | .channelPressure .. => .channelPressure
  | .pitchBend .. => .pitchBend
  | .mtcQuarterFrame .. => .mtcQuarterFrame
  | .songPosition .. => .songPosition
  | .songSelect .. => .songSelect
  | .tuneRequest => .tuneRequest
  | .timingClock => .timingClock
  | .start => .start
  | .continue_ => .continue_
  | .stop => .stop
  | .activeSensing => .activeSensing
  | .systemReset => .systemReset

/-- R65, R180 `message(kind, chan, d1, d2)`: the variant's fields in the order of R24. A descriptor field the variant does
not have is not read (R185). -/
def messageOf (k : Kind) (chan : Channel) (d1 d2 : U7) : Message :=
  match k with
  | .noteOff => .noteOff chan d1 d2
  | .noteOn => .noteOn chan d1 d2
  | .polyKeyPressure => .polyKeyPressure chan d1 d2
  | .controlChange => .controlChange chan d1 d2
  | .programChange => .programChange chan d1
  | .channelPressure => .channelPressure chan d1
  | .pitchBend => .pitchBend chan d1 d2
  | .mtcQuarterFrame => .mtcQuarterFrame d1
  | .songPosition => .songPosition d1 d2
  | .songSelect => .songSelect d1
  | .tuneRequest => .tuneRequest
  | .timingClock => .timingClock
  | .start => .start
  | .continue_ => .continue_
  | .stop => .stop
  | .activeSensing => .activeSensing
  | .systemReset => .systemReset

/-- R65: the `chan` descriptor field, where the variant has one. -/
def Message.chan? : Message → Option Channel
  | .noteOff c _ _ | .noteOn c _ _ | .polyKeyPressure c _ _ | .controlChange c _ _ => some c
  | .programChange c _ | .channelPressure c _ | .pitchBend c _ _ => some c
  | .mtcQuarterFrame _ | .songPosition _ _ | .songSelect _ | .tuneRequest => none
  | .timingClock | .start | .continue_ | .stop | .activeSensing | .systemReset => none

/-- The `d1` descriptor field a payload fills (R65). -/
def Payload.d1? : Payload → Option U7
  | .empty => none
  | .singleByte d1 => some d1
  | .doubleByte d1 _ => some d1

/-- The `d2` descriptor field a payload fills (R65). -/
def Payload.d2? : Payload → Option U7
  | .empty => none
  | .singleByte _ => none
  | .doubleByte _ d2 => some d2

/-- R67: how many data bytes a payload has. -/
def Payload.length : Payload → Nat
  | .empty => 0
  | .singleByte _ => 1
  | .doubleByte _ _ => 2

/-- The instruction that carries message `m` for cable `cn`. -/
def Instr.ofEvent (cn : CableNumber) : Message → Instr
  | .noteOff c n v => .noteOff cn c n v
  | .noteOn c n v => .noteOn cn c n v
  | .polyKeyPressure c n p => .polyKeyPressure cn c n p
  | .controlChange c k v => .controlChange cn c k v
  | .programChange c p => .programChange cn c p
  | .channelPressure c p => .channelPressure cn c p
  | .pitchBend c l m => .pitchBend cn c l m
  | .mtcQuarterFrame d => .mtcQuarterFrame cn d
  | .songPosition l m => .songPosition cn l m
  | .songSelect n => .songSelect cn n
  | .tuneRequest => .tuneRequest cn
  | .timingClock => .timingClock cn
  | .start => .start cn
  | .continue_ => .continue_ cn
  | .stop => .stop cn
  | .activeSensing => .activeSensing cn
  | .systemReset => .systemReset cn

/-- R27: the record `{ cable_number, message }` an instruction carries. -/
def Instr.event : Instr → UsbMidiEventPacket
  | .noteOff cn c n v => ⟨cn, .noteOff c n v⟩
  | .noteOn cn c n v => ⟨cn, .noteOn c n v⟩
  | .polyKeyPressure cn c n p => ⟨cn, .polyKeyPressure c n p⟩
  | .controlChange cn c k v => ⟨cn, .controlChange c k v⟩
  | .programChange cn c p => ⟨cn, .programChange c p⟩
  | .channelPressure cn c p => ⟨cn, .channelPressure c p⟩
  | .pitchBend cn c l m => ⟨cn, .pitchBend c l m⟩
  | .mtcQuarterFrame cn d => ⟨cn, .mtcQuarterFrame d⟩
  | .songPosition cn l m => ⟨cn, .songPosition l m⟩
  | .songSelect cn n => ⟨cn, .songSelect n⟩
  | .tuneRequest cn => ⟨cn, .tuneRequest⟩
  | .timingClock cn => ⟨cn, .timingClock⟩
  | .start cn => ⟨cn, .start⟩
  | .continue_ cn => ⟨cn, .continue_⟩
  | .stop cn => ⟨cn, .stop⟩
  | .activeSensing cn => ⟨cn, .activeSensing⟩
  | .systemReset cn => ⟨cn, .systemReset⟩

/-- The cable an instruction is for. -/
def Instr.cable (i : Instr) : CableNumber := i.event.cableNumber

/-- The message an instruction carries. -/
def Instr.message (i : Instr) : Message := i.event.message

/-- The row of the opcode table an instruction is of. -/
def Instr.kind (i : Instr) : Kind := i.message.kind

end Sys2Proof
end

