-- ==== Sys2Proof/Decode.lean ====
section
/-! DEFINITION. The two encodings of spec/30_encoding.md: the packet (decoder, encoder, the match and mask table) and the
message descriptor with its listing word. Decoding is total on any bytes and rejects by a named reason. -/

namespace Sys2Proof

/-! ### Packets -/

/-- R13 `PKT32 = pkt[0] ++ pkt[1] ++ pkt[2] ++ pkt[3]`, notation for match and mask values only. -/
def Packet.pkt32 (p : Packet) : BitVec 32 := p.b0 ++ p.b1 ++ p.b2 ++ p.b3

/-- R13: the packet a `PKT32` value denotes, `pkt[0]` in bits 31 to 24. -/
def Packet.ofPkt32 (w : BitVec 32) : Packet :=
  { b0 := w.extractLsb' 24 8, b1 := w.extractLsb' 16 8, b2 := w.extractLsb' 8 8, b3 := w.extractLsb' 0 8 }

/-- R13 `pkt[i]`. -/
def Packet.byte (p : Packet) (i : Fin 4) : Byte :=
  match i with
  | 0 => p.b0
  | 1 => p.b1
  | 2 => p.b2
  | 3 => p.b3

/-! ### Decoding a packet -/

/-- A status byte test of R203: the kind, or the rejection STATUS. -/
def whenStatus (ok : Bool) (k : Kind) : Except Reason Kind := if ok then .ok k else .error .status

/-- R202, R203, R68: the kind that a CIN and a status byte name together. -/
def classify (cin : CodeIndexNumber) (st : Byte) : Except Reason Kind :=
  match cin.toNat with
  | 0x2 => if st = 0xF1#8 then .ok .mtcQuarterFrame else whenStatus (st == 0xF3#8) .songSelect
  | 0x3 => whenStatus (st == 0xF2#8) .songPosition
  | 0x5 => whenStatus (st == 0xF6#8) .tuneRequest
  | 0x8 => whenStatus (highNibble st == cin) .noteOff
  | 0x9 => whenStatus (highNibble st == cin) .noteOn
  | 0xA => whenStatus (highNibble st == cin) .polyKeyPressure
  | 0xB => whenStatus (highNibble st == cin) .controlChange
  | 0xC => whenStatus (highNibble st == cin) .programChange
  | 0xD => whenStatus (highNibble st == cin) .channelPressure
  | 0xE => whenStatus (highNibble st == cin) .pitchBend
  | 0xF =>
    match st.toNat with
    | 0xF8 => .ok .timingClock
    | 0xFA => .ok .start
    | 0xFB => .ok .continue_
    | 0xFC => .ok .stop
    | 0xFE => .ok .activeSensing
    | 0xFF => .ok .systemReset
    | _ => .error .status
  | _ => .error .cin

/-- R205: a used data byte has bit 7 set, byte 2 looked at before byte 3. -/
def dataRejected (n : Nat) (b2 b3 : Byte) : Bool := (decide (1 ≤ n) && b2.msb) || (n == 2 && b3.msb)

/-- R207: an unused data byte is not 0x00. -/
def padRejected (n : Nat) (b2 b3 : Byte) : Bool := (n == 0 && b2 != 0x00#8) || (decide (n ≤ 1) && b3 != 0x00#8)

/-- R200 `d1 <- b2[6:0]`, `d2 <- b3[6:0]`. -/
def low7 (b : Byte) : U7 := b.setWidth 7

/-- R200, R204, R206: the message of a kind whose checks have passed. -/
def messageOfPacket (k : Kind) (p : Packet) : Message :=
  messageOf k (lowNibble p.b1) (low7 p.b2) (low7 p.b3)

/-- R200 DEC: a packet's instruction, or the first rejection in the order of R247 (STUB, CIN, STATUS, DATA, PAD). -/
def decodePacket (c : Params) (p : Packet) : Except Reason Instr :=
  let (cn, cin) := split p.b0
  if c.decodeStub then .error .stub
  else
    match classify cin p.b1 with
    | .error r => .error r
    | .ok k =>
      if dataRejected k.ndata p.b2 p.b3 then .error .data
      else if c.padCheck = .reject ∧ padRejected k.ndata p.b2 p.b3 then .error .pad
      else .ok (.ofEvent cn (messageOfPacket k p))

/-! ### Encoding an instruction, from the bit patterns of the opcode table -/

/-- R122 to R138 "Packet pattern" (the table's `encoding`), with `c` the cable, `h` the channel, `a` and `b` the data
fields and `p` (unused) 0, as R63 places them. The machine's ENC reaches the same bytes through R180 (Machine/Ops.lean). -/
def encode : Instr → Packet
  | .noteOff c h a b => ⟨c ++ 0x8#4, 0x8#4 ++ h, 0#1 ++ a, 0#1 ++ b⟩
  | .noteOn c h a b => ⟨c ++ 0x9#4, 0x9#4 ++ h, 0#1 ++ a, 0#1 ++ b⟩
  | .polyKeyPressure c h a b => ⟨c ++ 0xA#4, 0xA#4 ++ h, 0#1 ++ a, 0#1 ++ b⟩
  | .controlChange c h a b => ⟨c ++ 0xB#4, 0xB#4 ++ h, 0#1 ++ a, 0#1 ++ b⟩
  | .programChange c h a => ⟨c ++ 0xC#4, 0xC#4 ++ h, 0#1 ++ a, 0x00#8⟩
  | .channelPressure c h a => ⟨c ++ 0xD#4, 0xD#4 ++ h, 0#1 ++ a, 0x00#8⟩
  | .pitchBend c h a b => ⟨c ++ 0xE#4, 0xE#4 ++ h, 0#1 ++ a, 0#1 ++ b⟩
  | .mtcQuarterFrame c a => ⟨c ++ 0x2#4, 0xF1#8, 0#1 ++ a, 0x00#8⟩
  | .songPosition c a b => ⟨c ++ 0x3#4, 0xF2#8, 0#1 ++ a, 0#1 ++ b⟩
  | .songSelect c a => ⟨c ++ 0x2#4, 0xF3#8, 0#1 ++ a, 0x00#8⟩
  | .tuneRequest c => ⟨c ++ 0x5#4, 0xF6#8, 0x00#8, 0x00#8⟩
  | .timingClock c => ⟨c ++ 0xF#4, 0xF8#8, 0x00#8, 0x00#8⟩
  | .start c => ⟨c ++ 0xF#4, 0xFA#8, 0x00#8, 0x00#8⟩
  | .continue_ c => ⟨c ++ 0xF#4, 0xFB#8, 0x00#8, 0x00#8⟩
  | .stop c => ⟨c ++ 0xF#4, 0xFC#8, 0x00#8, 0x00#8⟩
  | .activeSensing c => ⟨c ++ 0xF#4, 0xFE#8, 0x00#8, 0x00#8⟩
  | .systemReset c => ⟨c ++ 0xF#4, 0xFF#8, 0x00#8, 0x00#8⟩

/-! ### The match and mask table (R69) -/

/-- One row of R69's table, in `PKT32` notation. -/
structure PatternRow where
  pattern : BitVec 32
  mask : BitVec 32
  strictMask : BitVec 32
deriving DecidableEq, Repr

/-- R69, `opcode_table.json`: the rows. -/
def Kind.row : Kind → PatternRow
  | .noteOff => ⟨0x08800000#32, 0x0FF08080#32, 0x0FF08080#32⟩
  | .noteOn => ⟨0x09900000#32, 0x0FF08080#32, 0x0FF08080#32⟩
  | .polyKeyPressure => ⟨0x0AA00000#32, 0x0FF08080#32, 0x0FF08080#32⟩
  | .controlChange => ⟨0x0BB00000#32, 0x0FF08080#32, 0x0FF08080#32⟩
  | .programChange => ⟨0x0CC00000#32, 0x0FF08000#32, 0x0FF080FF#32⟩
  | .channelPressure => ⟨0x0DD00000#32, 0x0FF08000#32, 0x0FF080FF#32⟩
  | .pitchBend => ⟨0x0EE00000#32, 0x0FF08080#32, 0x0FF08080#32⟩
  | .mtcQuarterFrame => ⟨0x02F10000#32, 0x0FFF8000#32, 0x0FFF80FF#32⟩
  | .songPosition => ⟨0x03F20000#32, 0x0FFF8080#32, 0x0FFF8080#32⟩
  | .songSelect => ⟨0x02F30000#32, 0x0FFF8000#32, 0x0FFF80FF#32⟩
  | .tuneRequest => ⟨0x05F60000#32, 0x0FFF0000#32, 0x0FFFFFFF#32⟩
  | .timingClock => ⟨0x0FF80000#32, 0x0FFF0000#32, 0x0FFFFFFF#32⟩
  | .start => ⟨0x0FFA0000#32, 0x0FFF0000#32, 0x0FFFFFFF#32⟩
  | .continue_ => ⟨0x0FFB0000#32, 0x0FFF0000#32, 0x0FFFFFFF#32⟩
  | .stop => ⟨0x0FFC0000#32, 0x0FFF0000#32, 0x0FFFFFFF#32⟩
  | .activeSensing => ⟨0x0FFE0000#32, 0x0FFF0000#32, 0x0FFFFFFF#32⟩
  | .systemReset => ⟨0x0FFF0000#32, 0x0FFF0000#32, 0x0FFFFFFF#32⟩

/-- R69: the mask a `PAD_CHECK` value selects. -/
def PatternRow.maskFor (r : PatternRow) : PadCheck → BitVec 32
  | .ignore => r.mask
  | .reject => r.strictMask

/-- R69 "a packet is of a kind exactly when `(PKT32 & mask) == match`". -/
def Packet.isOfKind (p : Packet) (c : PadCheck) (k : Kind) : Bool :=
  p.pkt32 &&& k.row.maskFor c == k.row.pattern

/-! ### The message descriptor (R64 to R66) -/

/-- R180 lines 1 and 2: the instruction that encode-port inputs spell; `none` is `InvalidKind` (R243). -/
def decodeEncIn (e : EncIn) : Option Instr :=
  match Kind.ofCode e.kind with
  | none => none
  | some k => some (.ofEvent e.cable (messageOf k e.chan e.d1 e.d2))

/-- R65, R66: the encode-port inputs that spell an instruction, with 0 in every unused field. -/
def encodeEncIn : Instr → EncIn
  | .noteOff cn c n v => ⟨cn, 0x08#5, c, n, v⟩
  | .noteOn cn c n v => ⟨cn, 0x09#5, c, n, v⟩
  | .polyKeyPressure cn c n p => ⟨cn, 0x0A#5, c, n, p⟩
  | .controlChange cn c k v => ⟨cn, 0x0B#5, c, k, v⟩
  | .programChange cn c p => ⟨cn, 0x0C#5, c, p, 0#7⟩
  | .channelPressure cn c p => ⟨cn, 0x0D#5, c, p, 0#7⟩
  | .pitchBend cn c l m => ⟨cn, 0x0E#5, c, l, m⟩
  | .mtcQuarterFrame cn d => ⟨cn, 0x11#5, 0#4, d, 0#7⟩
  | .songPosition cn l m => ⟨cn, 0x12#5, 0#4, l, m⟩
  | .songSelect cn n => ⟨cn, 0x13#5, 0#4, n, 0#7⟩
  | .tuneRequest cn => ⟨cn, 0x16#5, 0#4, 0#7, 0#7⟩
  | .timingClock cn => ⟨cn, 0x18#5, 0#4, 0#7, 0#7⟩
  | .start cn => ⟨cn, 0x1A#5, 0#4, 0#7, 0#7⟩
  | .continue_ cn => ⟨cn, 0x1B#5, 0#4, 0#7, 0#7⟩
  | .stop cn => ⟨cn, 0x1C#5, 0#4, 0#7, 0#7⟩
  | .activeSensing cn => ⟨cn, 0x1E#5, 0#4, 0#7, 0#7⟩
  | .systemReset cn => ⟨cn, 0x1F#5, 0#4, 0#7, 0#7⟩

/-- R66: the 27-bit listing word of encode-port inputs. -/
def EncIn.encw (e : EncIn) : BitVec 27 := e.cable ++ e.kind ++ e.chan ++ e.d1 ++ e.d2

/-- R66: the encode-port inputs a listing word denotes. -/
def EncIn.ofEncw (w : BitVec 27) : EncIn :=
  { cable := w.extractLsb' 23 4, kind := w.extractLsb' 18 5, chan := w.extractLsb' 14 4, d1 := w.extractLsb' 7 7,
    d2 := w.extractLsb' 0 7 }

/-! ### The opcode table's numbering -/

/-- The packet that the table's number `w` of `nbits` bits denotes: the table numbers a packet as `PKT32`, so byte 0 is
bits 31 to 24 (R13; log 12). -/
def Packet.ofTableWord (nbits w : Nat) : Packet := Packet.ofPkt32 (BitVec.ofNat 32 (w % 2 ^ nbits))

/-- What the decoder reads from an instruction whose bits are `w`, under the default parameters (R8, R9). A number that
does not fit 32 bits is no packet (R45, R60). -/
def decodeTableWord (nbits w : Nat) : Option Instr :=
  if w % 2 ^ nbits < 2 ^ 32 then
    match decodePacket .default (.ofTableWord nbits w) with
    | .ok i => some i
    | .error _ => none
  else none

end Sys2Proof
end

