-- ==== Sys2Proof/Machine/Cin.lean ====
section
/-! DEFINITION. The Code Index Number classifier (spec/42_cin_classifier.md): the constant table `CIN_OF` the block holds
(R33, R161), and the USB-MIDI meaning table `CIN_TABLE`, documentation of the code space (R33, R160). -/

namespace Sys2Proof

/-- R161 CINCLASS: `CIN_OF(kind)`. Depends on the kind only. -/
def cinOf : Kind → CodeIndexNumber
  | .noteOff => 0x8#4
  | .noteOn => 0x9#4
  | .polyKeyPressure => 0xA#4
  | .controlChange => 0xB#4
  | .programChange => 0xC#4
  | .channelPressure => 0xD#4
  | .pitchBend => 0xE#4
  | .mtcQuarterFrame => 0x2#4
  | .songPosition => 0x3#4
  | .songSelect => 0x2#4
  | .tuneRequest => 0x5#4
  | .timingClock => 0xF#4
  | .start => 0xF#4
  | .continue_ => 0xF#4
  | .stop => 0xF#4
  | .activeSensing => 0xF#4
  | .systemReset => 0xF#4

/-- One row of R160: the sizes in bytes of the MIDI message a CIN carries, and the kinds of this block that have it. -/
structure CinRow where
  midiSizes : List Nat
  kinds : List Kind
deriving DecidableEq, Repr

/-- R160 `CIN_TABLE[cin]` (USB-MIDI Table 4-1, which the spec supplies from general knowledge, 93 K1; log 10). -/
def cinTable (cin : CodeIndexNumber) : CinRow :=
  match cin.toNat with
  | 0x0 => ⟨[1, 2, 3], []⟩
  | 0x1 => ⟨[1, 2, 3], []⟩
  | 0x2 => ⟨[2], [.mtcQuarterFrame, .songSelect]⟩
  | 0x3 => ⟨[3], [.songPosition]⟩
  | 0x4 => ⟨[3], []⟩
  | 0x5 => ⟨[1], [.tuneRequest]⟩
  | 0x6 => ⟨[2], []⟩
  | 0x7 => ⟨[3], []⟩
  | 0x8 => ⟨[3], [.noteOff]⟩
  | 0x9 => ⟨[3], [.noteOn]⟩
  | 0xA => ⟨[3], [.polyKeyPressure]⟩
  | 0xB => ⟨[3], [.controlChange]⟩
  | 0xC => ⟨[2], [.programChange]⟩
  | 0xD => ⟨[2], [.channelPressure]⟩
  | 0xE => ⟨[3], [.pitchBend]⟩
  | _ => ⟨[1], [.timingClock, .start, .continue_, .stop, .activeSensing, .systemReset]⟩

end Sys2Proof
end

