-- ==== Sys2Proof/Machine/Flags.lean ====
section
/-! DEFINITION. The block has no flag or condition code (spec/10_state.md R31). Its only status outputs are the result
indicators `enc_ok`, `dec_ok`, `dec_reason` and `nm_ok`; the coding of `dec_reason` stands here, the indicators themselves
are driven by Machine/Ops.lean and Machine/NibblePorts.lean. -/

namespace Sys2Proof

/-- R242, reason 0: no error. -/
def reasonNone : BitVec 3 := 0#3

/-- R242: the `dec_reason` code of a rejection; 6 and 7 are never produced. -/
def Reason.code : Reason → BitVec 3
  | .stub => 1#3
  | .cin => 2#3
  | .status => 3#3
  | .data => 4#3
  | .pad => 5#3

/-- R242: the rejection a `dec_reason` code names. -/
def Reason.ofCode (c : BitVec 3) : Option Reason :=
  match c.toNat with
  | 1 => some .stub
  | 2 => some .cin
  | 3 => some .status
  | 4 => some .data
  | 5 => some .pad
  | _ => none

end Sys2Proof
end

