-- ==== Sys2Proof/Machine/State.lean ====
section
/-! DEFINITION. The state of one instance (spec/10_state.md R28 to R36): its ports, its parameters, and the model's own
choice of the port in use and counter of free values. The block retains nothing from one invocation to the next (R20): the
outputs of a port are those of its last invocation, and no rule reads them. -/

namespace Sys2Proof.Machine

/-- R40: a packet as addressable storage, addresses 0 to 3 in a canonical list of cells (log 3). -/
abbrev Memory := List Host.Cell

/-- R28: the outputs of the encode port. -/
structure EncOut where
  /-- `enc_pkt[0..3]`, meaningful when `ok`. -/
  pkt : Memory
  /-- `enc_ok`. -/
  ok : Bool
deriving DecidableEq, Repr

/-- R29: the outputs of the decode port, the value outputs meaningful under the conditions of its table. -/
structure DecOut where
  /-- `dec_ok`. -/
  ok : Bool
  /-- `dec_reason`. -/
  reason : BitVec 3
  /-- `dec_cable`. -/
  cable : CableNumber
  /-- `dec_kind`. -/
  kind : KindCode
  /-- `dec_chan`. -/
  chan : Channel
  /-- `dec_d1`. -/
  d1 : U7
  /-- `dec_d2`. -/
  d2 : U7
deriving DecidableEq, Repr

/-- R30: two nibbles, the outputs of the Split port and the inputs of the Combine port. -/
structure NibblePair where
  high : Nibble
  low : Nibble
deriving DecidableEq, Repr

/-- R30: the outputs of the Make port. -/
structure NmOut where
  /-- `nm_ok`. -/
  ok : Bool
  /-- `nm_nib`, meaningful when `ok`. -/
  nib : Nibble
deriving DecidableEq, Repr

/-- One instance of the block, between two invocations. -/
structure State where
  /-- R8, R9, R32: fixed for the life of the instance (log 6). -/
  params : Params
  /-- The port the transport has presented an invocation on; `none` before the first (the model's own, log 1). -/
  invoked : Option Port
  /-- R28 `enc_cable`, `enc_kind`, `enc_chan`, `enc_d1`, `enc_d2`. -/
  encIn : EncIn
  /-- R28 `enc_pkt`, `enc_ok`. -/
  encOut : EncOut
  /-- R29 `dec_pkt[0..3]`. -/
  decIn : Memory
  /-- R29 `dec_ok` to `dec_d2`. -/
  decOut : DecOut
  /-- R30 `ns_byte`. -/
  nsIn : Byte
  /-- R30 `ns_high`, `ns_low`. -/
  nsOut : NibblePair
  /-- R30 `nc_high`, `nc_low`. -/
  ncIn : NibblePair
  /-- R30 `nc_byte`. -/
  ncOut : Byte
  /-- R30 `nm_value`. -/
  nmIn : Byte
  /-- R30 `nm_ok`, `nm_nib`. -/
  nmOut : NmOut
  /-- The number of the next draw of free values (the model's own, log 7). -/
  draws : Nat
deriving DecidableEq, Repr

/-- No rule lets the block stop: an error is a result value (R210, R240, R246), so there is no fault (log 9). -/
inductive Fault where
deriving DecidableEq, Repr

/-- Why the model gives an instruction no meaning. -/
inductive Refusal where
  /-- Raised by `exec` for an instruction whose meaning is not written; no arm does (safe). -/
  | notModelled (mnemonic : String)
deriving DecidableEq, Repr

/-- R36, R280, R281: the state after reset of the instance built with the parameters `c`. Nothing is initialised: the
parameters hold their configured values; the inputs before the transport presents any are 0 (DESIGN CHOICE, unsafe, log 4);
`enc_ok`, `dec_ok`, `dec_reason`, `nm_ok` and the defined value outputs are what the rules give for those inputs and
parameters, since outputs are "the same functions of the inputs as at any other time"; the outputs the spec leaves
unspecified there are 0 (DESIGN CHOICE, unsafe, log 5); no invocation is presented (log 1). -/
def State.resetFor (c : Params) : State where
  params := c
  invoked := none
  encIn := { cable := 0#4, kind := 0#5, chan := 0#4, d1 := 0#7, d2 := 0#7 }
  encOut := { pkt := [], ok := false }
  decIn := []
  decOut :=
    { ok := false, reason := if c.decodeStub then 1#3 else 2#3, cable := 0#4, kind := 0#5, chan := 0#4, d1 := 0#7, d2 := 0#7 }
  nsIn := 0#8
  nsOut := { high := 0#4, low := 0#4 }
  ncIn := { high := 0#4, low := 0#4 }
  ncOut := 0#8
  nmIn := 0#8
  nmOut := { ok := true, nib := 0#4 }
  draws := 0

/-- The reset state of the instance with the default parameters of R8 and R9 (log 6). Every other instance has its own,
`State.resetFor`. -/
def State.reset : State := .resetFor .default

end Sys2Proof.Machine
end

