-- ==== Sys2Proof/Machine/Ops.lean ====
section
/-! DEFINITION. The named operations over packets and ports: reading and writing packet bytes (spec/00_scope.md R14,
spec/20_memory.md), assembling a packet (spec/43_packet_encode.md), delivering a decoded message
(spec/44_packet_decode.md R206), and reporting an error, the block's only substitute for an exception
(spec/60_exceptions.md R240 to R246: nothing is saved, no mode changes, no handler runs, nothing returns). -/

namespace Sys2Proof.Machine

/-! ### Packet storage -/

/-- What an address that the list does not name reads as (DESIGN CHOICE, unsafe, log 3). -/
def unlistedByte : Byte := 0x00#8

/-- The byte of a cell list at address `a`. -/
def readCell : Memory → Nat → Byte
  | [], _ => unlistedByte
  | (k, b) :: m, a => if k = a then b else readCell m a

/-- Writing a byte of a cell list at address `a`, keeping the canonical form: a cell whose value an unlisted address reads
as is not listed. -/
def writeCell : Memory → Nat → Byte → Memory
  | [], a, v => if v = unlistedByte then [] else [(a, v)]
  | (k, b) :: m, a, v =>
    if a < k then (if v = unlistedByte then (k, b) :: m else (a, v) :: (k, b) :: m)
    else if a = k then (if v = unlistedByte then m else (a, v) :: m)
    else (k, b) :: writeCell m a v

/-- The canonical form from address `lo` on: addresses rise strictly, stay below 4, and no cell holds the unlisted byte. -/
def wfFrom (lo : Nat) : Memory → Bool
  | [] => true
  | (k, b) :: m => decide (lo ≤ k) && decide (k < 4) && b != unlistedByte && wfFrom (k + 1) m

/-- The canonical form of a packet's memory (R40: addresses 0 to 3 and no other). -/
def Memory.wf (m : Memory) : Bool := wfFrom 0 m

/-- R14 `MemRead(pkt, i)`. An index outside 0 to 3 does not exist (R40) and is no `Fin 4`. -/
def Memory.read (m : Memory) (i : Fin 4) : Byte := readCell m i.val

/-- R14 `MemWrite(pkt, i, v)`. -/
def Memory.write (m : Memory) (i : Fin 4) (v : Byte) : Memory := writeCell m i.val v

/-- R47: all four bytes of a packet. -/
def Memory.packet (m : Memory) : Packet := ⟨m.read 0, m.read 1, m.read 2, m.read 3⟩

/-- R46: a packet all of whose four bytes are written, in index order. -/
def Memory.ofPacket (p : Packet) : Memory :=
  Memory.write (Memory.write (Memory.write (Memory.write [] 0 p.b0) 1 p.b1) 2 p.b2) 3 p.b3

/-! ### Assembling a packet -/

/-- R182, R63: bytes 1 to 3 by payload shape, an unused byte 0x00, behind the header. -/
def placeBytes (header : Byte) (r : Raw) : Packet :=
  match r.payload with
  | .empty => ⟨header, r.status, 0x00#8, 0x00#8⟩
  | .singleByte b => ⟨header, r.status, zext8 b, 0x00#8⟩
  | .doubleByte b1 b2 => ⟨header, r.status, zext8 b1, zext8 b2⟩

/-- R181, R182: the header `combine(cn, CIN_OF(kind))` and the bytes behind it. -/
def assemblePacket (e : UsbMidiEventPacket) (r : Raw) : Packet :=
  placeBytes (combine (nibbleOfCable e.cableNumber) (cinOf e.message.kind)) r

/-! ### Driving the outputs of a port

Each invocation takes one number of the counter of free values, whether or not an output is left open (log 7). -/

/-- R180: a packet on the encode port, `enc_ok = 1`. -/
def driveEncode (p : Packet) (s : State) : State :=
  { s with encOut := { pkt := .ofPacket p, ok := true }, draws := s.draws + 1 }

/-- R206: a decoded message on the decode port, `dec_ok = 1` and `dec_reason = 0`. An output the kind does not use is a
free value (R29). -/
def driveDecode (e : UsbMidiEventPacket) (payload : Payload) (s : State) : State :=
  { s with
    decOut :=
      { ok := true
        reason := reasonNone
        cable := e.cableNumber
        kind := e.message.kind.code
        chan := e.message.chan?.getD (Config.freeDecChan s.draws)
        d1 := payload.d1?.getD (Config.freeDecD1 s.draws)
        d2 := payload.d2?.getD (Config.freeDecD2 s.draws) }
    draws := s.draws + 1 }

/-- The one way a message is carried, whatever its kind: on the encode port its packet goes out (R180), on the decode port
the message itself (R206). A nibble port carries no message, and neither does a block nobody has invoked: there nothing
happens (DESIGN CHOICE, log 2; `step` never carries a message there). -/
def carry (e : UsbMidiEventPacket) (r : Raw) (s : State) : State :=
  match s.invoked with
  | some .enc => driveEncode (assemblePacket e r) s
  | some .dec => driveDecode e r.payload s
  | some .nsplit | some .ncomb | some .nmake | none => s

/-! ### Errors -/

/-- U1: `enc_pkt` as a draw. -/
def freePacket (n : Nat) : Packet :=
  ⟨Config.freeEncPkt n 0, Config.freeEncPkt n 1, Config.freeEncPkt n 2, Config.freeEncPkt n 3⟩

/-- R240 to R244: an error ends its invocation. The port that raised it shows the error in its indicators, its value
outputs are free (U1, U2, U4), and nothing else changes. -/
def raiseError (e : BlockError) (s : State) : State :=
  match e with
  | .outOfRange _ => { s with nmOut := { ok := false, nib := Config.freeNmNib s.draws }, draws := s.draws + 1 }
  | .invalidKind _ => { s with encOut := { pkt := .ofPacket (freePacket s.draws), ok := false }, draws := s.draws + 1 }
  | .invalidPacket r =>
    { s with
      decOut :=
        { ok := false
          reason := r.code
          cable := Config.freeDecCable s.draws
          kind := Config.freeDecKind s.draws
          chan := Config.freeDecChan s.draws
          d1 := Config.freeDecD1 s.draws
          d2 := Config.freeDecD2 s.draws }
      draws := s.draws + 1 }

end Sys2Proof.Machine
end

