-- ==== Sys2Proof/Machine/ChannelVoice.lean ====
section
/-! DEFINITION. The seven channel-voice kinds (spec/41_messages.md R122 to R128).
Each kind has its `raw` pair (status byte and payload) and its meaning, which carries the message on the port in use
(`carry`, Machine/Ops.lean): out as a packet on the encode port, out as a descriptor on the decode port. -/

namespace Sys2Proof.Machine

/-- R122 NOTE_OFF: the status byte and the payload. `velocity = 0` is encoded as given. -/
def rawNoteOff (channel : Channel) (note velocity : U7) : Raw :=
  { status := 0x80#8 ||| zext8 channel, payload := .doubleByte note velocity }

/-- R122 NOTE_OFF: carry the message for `cable`. No error is raised. -/
def execNoteOff (cable : CableNumber) (channel : Channel) (note velocity : U7) (s : State) : Host.Outcome State Fault Refusal :=
  .next (carry ⟨cable, .noteOff channel note velocity⟩ (rawNoteOff channel note velocity) s)

/-- R123 NOTE_ON: the status byte and the payload. `velocity = 0` stays a NOTE_ON. -/
def rawNoteOn (channel : Channel) (note velocity : U7) : Raw :=
  { status := 0x90#8 ||| zext8 channel, payload := .doubleByte note velocity }

/-- R123 NOTE_ON: carry the message for `cable`. No error is raised. -/
def execNoteOn (cable : CableNumber) (channel : Channel) (note velocity : U7) (s : State) : Host.Outcome State Fault Refusal :=
  .next (carry ⟨cable, .noteOn channel note velocity⟩ (rawNoteOn channel note velocity) s)

/-- R124 POLY_KEY_PRESSURE: the status byte and the payload. -/
def rawPolyKeyPressure (channel : Channel) (note pressure : U7) : Raw :=
  { status := 0xA0#8 ||| zext8 channel, payload := .doubleByte note pressure }

/-- R124 POLY_KEY_PRESSURE: carry the message for `cable`. No error is raised. -/
def execPolyKeyPressure (cable : CableNumber) (channel : Channel) (note pressure : U7) (s : State) : Host.Outcome State Fault Refusal :=
  .next (carry ⟨cable, .polyKeyPressure channel note pressure⟩ (rawPolyKeyPressure channel note pressure) s)

/-- R125 CONTROL_CHANGE: the status byte and the payload. Controllers 120 to 127 get no special handling. -/
def rawControlChange (channel : Channel) (controller value : U7) : Raw :=
  { status := 0xB0#8 ||| zext8 channel, payload := .doubleByte controller value }

/-- R125 CONTROL_CHANGE: carry the message for `cable`. No error is raised. -/
def execControlChange (cable : CableNumber) (channel : Channel) (controller value : U7) (s : State) : Host.Outcome State Fault Refusal :=
  .next (carry ⟨cable, .controlChange channel controller value⟩ (rawControlChange channel controller value) s)

/-- R126 PROGRAM_CHANGE: the status byte and the payload. -/
def rawProgramChange (channel : Channel) (program : U7) : Raw :=
  { status := 0xC0#8 ||| zext8 channel, payload := .singleByte program }

/-- R126 PROGRAM_CHANGE: carry the message for `cable`. No error is raised. -/
def execProgramChange (cable : CableNumber) (channel : Channel) (program : U7) (s : State) : Host.Outcome State Fault Refusal :=
  .next (carry ⟨cable, .programChange channel program⟩ (rawProgramChange channel program) s)

/-- R127 CHANNEL_PRESSURE: the status byte and the payload. -/
def rawChannelPressure (channel : Channel) (pressure : U7) : Raw :=
  { status := 0xD0#8 ||| zext8 channel, payload := .singleByte pressure }

/-- R127 CHANNEL_PRESSURE: carry the message for `cable`. No error is raised. -/
def execChannelPressure (cable : CableNumber) (channel : Channel) (pressure : U7) (s : State) : Host.Outcome State Fault Refusal :=
  .next (carry ⟨cable, .channelPressure channel pressure⟩ (rawChannelPressure channel pressure) s)

/-- R128 PITCH_BEND: the status byte and the payload. The halves are carried as given; no 14-bit value is formed. -/
def rawPitchBend (channel : Channel) (lsb msb : U7) : Raw :=
  { status := 0xE0#8 ||| zext8 channel, payload := .doubleByte lsb msb }

/-- R128 PITCH_BEND: carry the message for `cable`. No error is raised. -/
def execPitchBend (cable : CableNumber) (channel : Channel) (lsb msb : U7) (s : State) : Host.Outcome State Fault Refusal :=
  .next (carry ⟨cable, .pitchBend channel lsb msb⟩ (rawPitchBend channel lsb msb) s)

end Sys2Proof.Machine
end

