-- ==== Sys2Proof/Machine/SystemCommon.lean ====
section
/-! DEFINITION. The four System Common kinds (spec/41_messages.md R129 to R132).
Each kind has its `raw` pair (status byte and payload) and its meaning, which carries the message on the port in use
(`carry`, Machine/Ops.lean): out as a packet on the encode port, out as a descriptor on the decode port. -/

namespace Sys2Proof.Machine

/-- R129 MTC_QUARTER_FRAME: the status byte and the payload. `data` is not interpreted. -/
def rawMtcQuarterFrame (data : U7) : Raw :=
  { status := 0xF1#8, payload := .singleByte data }

/-- R129 MTC_QUARTER_FRAME: carry the message for `cable`. No error is raised. -/
def execMtcQuarterFrame (cable : CableNumber) (data : U7) (s : State) : Host.Outcome State Fault Refusal :=
  .next (carry ⟨cable, .mtcQuarterFrame data⟩ (rawMtcQuarterFrame data) s)

/-- R130 SONG_POSITION: the status byte and the payload. The halves are carried as given. -/
def rawSongPosition (lsb msb : U7) : Raw :=
  { status := 0xF2#8, payload := .doubleByte lsb msb }

/-- R130 SONG_POSITION: carry the message for `cable`. No error is raised. -/
def execSongPosition (cable : CableNumber) (lsb msb : U7) (s : State) : Host.Outcome State Fault Refusal :=
  .next (carry ⟨cable, .songPosition lsb msb⟩ (rawSongPosition lsb msb) s)

/-- R131 SONG_SELECT: the status byte and the payload. -/
def rawSongSelect (song : U7) : Raw :=
  { status := 0xF3#8, payload := .singleByte song }

/-- R131 SONG_SELECT: carry the message for `cable`. No error is raised. -/
def execSongSelect (cable : CableNumber) (song : U7) (s : State) : Host.Outcome State Fault Refusal :=
  .next (carry ⟨cable, .songSelect song⟩ (rawSongSelect song) s)

/-- R132 TUNE_REQUEST: the status byte and the payload. -/
def rawTuneRequest : Raw :=
  { status := 0xF6#8, payload := .empty }

/-- R132 TUNE_REQUEST: carry the message for `cable`. No error is raised. -/
def execTuneRequest (cable : CableNumber) (s : State) : Host.Outcome State Fault Refusal :=
  .next (carry ⟨cable, .tuneRequest⟩ rawTuneRequest s)

end Sys2Proof.Machine
end

