-- ==== Sys2Proof/Machine/SystemRealTime.lean ====
section
/-! DEFINITION. The six System Real-Time kinds (spec/41_messages.md R133 to R138).
Each kind has its `raw` pair (status byte and payload) and its meaning, which carries the message on the port in use
(`carry`, Machine/Ops.lean): out as a packet on the encode port, out as a descriptor on the decode port. -/

namespace Sys2Proof.Machine

/-- R133 TIMING_CLOCK: the status byte and the payload. -/
def rawTimingClock : Raw :=
  { status := 0xF8#8, payload := .empty }

/-- R133 TIMING_CLOCK: carry the message for `cable`. No error is raised. -/
def execTimingClock (cable : CableNumber) (s : State) : Host.Outcome State Fault Refusal :=
  .next (carry ⟨cable, .timingClock⟩ rawTimingClock s)

/-- R134 START: the status byte and the payload. -/
def rawStart : Raw :=
  { status := 0xFA#8, payload := .empty }

/-- R134 START: carry the message for `cable`. No error is raised. -/
def execStart (cable : CableNumber) (s : State) : Host.Outcome State Fault Refusal :=
  .next (carry ⟨cable, .start⟩ rawStart s)

/-- R135 CONTINUE: the status byte and the payload. -/
def rawContinue : Raw :=
  { status := 0xFB#8, payload := .empty }

/-- R135 CONTINUE: carry the message for `cable`. No error is raised. -/
def execContinue (cable : CableNumber) (s : State) : Host.Outcome State Fault Refusal :=
  .next (carry ⟨cable, .continue_⟩ rawContinue s)

/-- R136 STOP: the status byte and the payload. -/
def rawStop : Raw :=
  { status := 0xFC#8, payload := .empty }

/-- R136 STOP: carry the message for `cable`. No error is raised. -/
def execStop (cable : CableNumber) (s : State) : Host.Outcome State Fault Refusal :=
  .next (carry ⟨cable, .stop⟩ rawStop s)

/-- R137 ACTIVE_SENSING: the status byte and the payload. -/
def rawActiveSensing : Raw :=
  { status := 0xFE#8, payload := .empty }

/-- R137 ACTIVE_SENSING: carry the message for `cable`. No error is raised. -/
def execActiveSensing (cable : CableNumber) (s : State) : Host.Outcome State Fault Refusal :=
  .next (carry ⟨cable, .activeSensing⟩ rawActiveSensing s)

/-- R138 SYSTEM_RESET: the status byte and the payload. The block frames the message and resets nothing. -/
def rawSystemReset : Raw :=
  { status := 0xFF#8, payload := .empty }

/-- R138 SYSTEM_RESET: carry the message for `cable`. No error is raised. -/
def execSystemReset (cable : CableNumber) (s : State) : Host.Outcome State Fault Refusal :=
  .next (carry ⟨cable, .systemReset⟩ rawSystemReset s)

end Sys2Proof.Machine
end

