-- ==== Sys2Proof/Machine/Dispatch.lean ====
section
/-! DEFINITION. From an instruction to its meaning, one arm per row of spec/opcode_table.json. -/

namespace Sys2Proof.Machine

def exec (i : Instr) (s : State) : Host.Outcome State Fault Refusal :=
  match i with
  | .noteOff cable channel note velocity => Sys2Proof.Machine.execNoteOff cable channel note velocity s
  | .noteOn cable channel note velocity => Sys2Proof.Machine.execNoteOn cable channel note velocity s
  | .polyKeyPressure cable channel note pressure => Sys2Proof.Machine.execPolyKeyPressure cable channel note pressure s
  | .controlChange cable channel controller value => Sys2Proof.Machine.execControlChange cable channel controller value s
  | .programChange cable channel program => Sys2Proof.Machine.execProgramChange cable channel program s
  | .channelPressure cable channel pressure => Sys2Proof.Machine.execChannelPressure cable channel pressure s
  | .pitchBend cable channel lsb msb => Sys2Proof.Machine.execPitchBend cable channel lsb msb s
  | .mtcQuarterFrame cable data => Sys2Proof.Machine.execMtcQuarterFrame cable data s
  | .songPosition cable lsb msb => Sys2Proof.Machine.execSongPosition cable lsb msb s
  | .songSelect cable song => Sys2Proof.Machine.execSongSelect cable song s
  | .tuneRequest cable => Sys2Proof.Machine.execTuneRequest cable s
  | .timingClock cable => Sys2Proof.Machine.execTimingClock cable s
  | .start cable => Sys2Proof.Machine.execStart cable s
  | .continue_ cable => Sys2Proof.Machine.execContinue cable s
  | .stop cable => Sys2Proof.Machine.execStop cable s
  | .activeSensing cable => Sys2Proof.Machine.execActiveSensing cable s
  | .systemReset cable => Sys2Proof.Machine.execSystemReset cable s

end Sys2Proof.Machine
end

