-- ==== Sys2Proof/Machine/Fetch.lean ====
section
/-! DEFINITION. What a message port's inputs say: the instruction an invocation runs, or the error that ends it
(spec/43_packet_encode.md R180, spec/44_packet_decode.md R200). -/

namespace Sys2Proof.Machine

/-- R180, R243: the instruction the encode port's inputs spell, or `InvalidKind`. -/
def fetchEncode (s : State) : Except BlockError Instr :=
  match decodeEncIn s.encIn with
  | some i => .ok i
  | none => .error (.invalidKind s.encIn.kind)

/-- R200, R242: the instruction the packet on the decode port decodes to, or `InvalidPacket(reason)`. -/
def fetchDecode (s : State) : Except BlockError Instr :=
  match decodePacket s.params s.decIn.packet with
  | .ok i => .ok i
  | .error r => .error (.invalidPacket r)

end Sys2Proof.Machine
end

