-- ==== Sys2Proof/Machine/NibblePorts.lean ====
section
/-! DEFINITION. The three nibble ports (spec/10_state.md R30, spec/40_nibble.md R100 to R102). They carry no message and have
no row of the opcode table; `step` runs them. -/

namespace Sys2Proof.Machine

/-- R100 NSPLIT: `ns_byte` to `ns_high` and `ns_low`. -/
def execNsplit (s : State) : Host.Outcome State Fault Refusal :=
  .next { s with nsOut := { high := (split s.nsIn).1, low := (split s.nsIn).2 }, draws := s.draws + 1 }

/-- R101 NCOMB: `nc_high` and `nc_low` to `nc_byte`. -/
def execNcomb (s : State) : Host.Outcome State Fault Refusal :=
  .next { s with ncOut := combine s.ncIn.high s.ncIn.low, draws := s.draws + 1 }

/-- R102 NMAKE: `nm_value` to `nm_nib`, or `OutOfRange`. -/
def execNmake (s : State) : Host.Outcome State Fault Refusal :=
  match makeNibble s.nmIn with
  | some n => .next { s with nmOut := { ok := true, nib := n }, draws := s.draws + 1 }
  | none => .next (raiseError (.outOfRange s.nmIn) s)

end Sys2Proof.Machine
end

