-- ==== Sys2Proof/Machine/Step.lean ====
section
/-! DEFINITION. One step: one invocation of the port in use, all inputs to all outputs (spec/20_memory.md R48). -/

namespace Sys2Proof.Machine

/-- An invocation of a message port: run the instruction its inputs spell, or report the error (R180, R200, R244). -/
def runFetched (f : Except BlockError Instr) (s : State) : Host.Outcome State Fault Refusal :=
  match f with
  | .ok i => exec i s
  | .error e => .next (raiseError e s)

/-- One invocation (R18, R48). Inputs, parameters and the choice of port are the transport's and stay. With no invocation
presented nothing happens (log 1). -/
def step (s : State) : Host.Outcome State Fault Refusal :=
  match s.invoked with
  | none => .next s
  | some .enc => runFetched (fetchEncode s) s
  | some .dec => runFetched (fetchDecode s) s
  | some .nsplit => execNsplit s
  | some .ncomb => execNcomb s
  | some .nmake => execNmake s

/-- The packet that the opcode table's number `w` of `nbits` bits denotes, presented on the decode port, so that the next
step decodes and runs it (log 12). The parameters are the instance's and stay. -/
def State.withFetchWord (s : State) (nbits w : Nat) : State :=
  { s with invoked := some .dec, decIn := .ofPacket (.ofTableWord nbits w) }

end Sys2Proof.Machine
end

