-- ==== Sys2Proof/WellFormed.lean ====
section
/-! DEFINITION. The checks on terms: which kind codes spell a Message (spec/30_encoding.md R64, R70), which instructions
and encode-port inputs are well formed (R27, R243), and which listing lines assemble (R72). -/

namespace Sys2Proof

/-- R180: the kind codes the encode port accepts, as the rule's set lists them. -/
def definedKinds : List KindCode :=
  [0x08#5, 0x09#5, 0x0A#5, 0x0B#5, 0x0C#5, 0x0D#5, 0x0E#5] ++ [0x11#5, 0x12#5, 0x13#5, 0x16#5] ++
  [0x18#5, 0x1A#5, 0x1B#5, 0x1C#5, 0x1E#5, 0x1F#5]

/-- R70: the 15 undefined kind codes, as the rule lists them. -/
def undefinedKinds : List KindCode :=
  [0x00#5, 0x01#5, 0x02#5, 0x03#5, 0x04#5, 0x05#5, 0x06#5, 0x07#5] ++
  [0x0F#5, 0x10#5, 0x14#5, 0x15#5, 0x17#5, 0x19#5, 0x1D#5]

/-- R64: does the code name a kind? -/
def definedKind (c : KindCode) : Bool := definedKinds.contains c

/-- R243: encode-port inputs spell a Message when their kind code is defined. The other inputs fit by their widths. -/
def EncIn.wellFormed (e : EncIn) : Bool := definedKind e.kind

/-- R27: an instruction is well formed when its kind has a defined code. The field widths leave nothing else to check, so
every instruction is (Laws/Encoding.lean proves it): an ill-formed Message variant is "unrepresentable". -/
def Instr.wellFormed (i : Instr) : Bool := definedKind i.kind.code

/-- R72: is every field of an ENC line within its width, the channel first where the kind has one? -/
def fieldsFit (k : Kind) (fields : List Nat) : Bool :=
  if k.isChannelVoice then
    match fields with
    | [] => false
    | chan :: ds => decide (chan < 16) && ds.all (· < 128)
  else fields.all (· < 128)

/-- R72, U14: the lines that are an invocation. -/
def Line.wellFormed : Line → Bool
  | .enc cable k fields => decide (cable < 16) && fields.length == k.fieldCount && fieldsFit k fields
  | .dec b0 b1 b2 b3 => [b0, b1, b2, b3].all (· < 256)
  | .nsplit b => decide (b < 256)
  | .ncomb high low => decide (high < 16) && decide (low < 16)
  | .nmake v => decide (v < 256)

end Sys2Proof
end

