-- ==== Sys2Proof/Machine/Assembler.lean ====
section
/-! DEFINITION. The listing syntax of spec/30_encoding.md R72: text to a line, a line to an invocation. The assembler is the
spec's notation for invocations and has no bearing on the block (92 D15). Characters are plain lists, so that everything
evaluates. -/

namespace Sys2Proof.Machine

/-! ### From a line to an invocation -/

/-- R65, R66: the `chan`, `d1` and `d2` descriptor fields of a line's fields, 0 in every unused one. -/
def descriptorFields (k : Kind) (fields : List Nat) : Channel × U7 × U7 :=
  let ds := if k.isChannelVoice then fields.drop 1 else fields
  let chan := if k.isChannelVoice then fields.headD 0 else 0
  (BitVec.ofNat 4 chan, BitVec.ofNat 7 (ds.headD 0), BitVec.ofNat 7 ((ds.drop 1).headD 0))

/-- R72: an ENC line assembles to encode-port inputs, a DEC line to its four bytes; a wrong count or a value outside its
width is an assembly error, and no invocation results (U14). -/
def assembleLine (l : Line) : Except AsmError Invocation :=
  match l with
  | .enc cable k fields =>
    if fields.length ≠ k.fieldCount then .error .fieldCount
    else if l.wellFormed then
      let (chan, d1, d2) := descriptorFields k fields
      .ok (.enc ⟨BitVec.ofNat 4 cable, k.code, chan, d1, d2⟩)
    else .error .fieldWidth
  | .dec b0 b1 b2 b3 =>
    if l.wellFormed then .ok (.dec ⟨BitVec.ofNat 8 b0, BitVec.ofNat 8 b1, BitVec.ofNat 8 b2, BitVec.ofNat 8 b3⟩)
    else .error .fieldWidth
  | .nsplit b => if l.wellFormed then .ok (.nsplit (BitVec.ofNat 8 b)) else .error .fieldWidth
  | .ncomb h lo => if l.wellFormed then .ok (.ncomb (BitVec.ofNat 4 h) (BitVec.ofNat 4 lo)) else .error .fieldWidth
  | .nmake v => if l.wellFormed then .ok (.nmake (BitVec.ofNat 8 v)) else .error .fieldWidth

/-! ### From text to a line -/

/-- R64: the mnemonics. -/
def mnemonics : List (List Char × Kind) :=
  [("NOTE_OFF".toList, .noteOff), ("NOTE_ON".toList, .noteOn), ("POLY_KEY_PRESSURE".toList, .polyKeyPressure),
   ("CONTROL_CHANGE".toList, .controlChange), ("PROGRAM_CHANGE".toList, .programChange),
   ("CHANNEL_PRESSURE".toList, .channelPressure), ("PITCH_BEND".toList, .pitchBend)] ++
  [("MTC_QUARTER_FRAME".toList, .mtcQuarterFrame), ("SONG_POSITION".toList, .songPosition),
   ("SONG_SELECT".toList, .songSelect), ("TUNE_REQUEST".toList, .tuneRequest)] ++
  [("TIMING_CLOCK".toList, .timingClock), ("START".toList, .start), ("CONTINUE".toList, .continue_),
   ("STOP".toList, .stop), ("ACTIVE_SENSING".toList, .activeSensing), ("SYSTEM_RESET".toList, .systemReset)]

/-- The kind a mnemonic names. -/
def kindOfName (name : List Char) : Option Kind := mnemonics.lookup name

/-- White space between the parts of a line (log 11). -/
def isBlank (c : Char) : Bool := c == ' ' || c == '\t'

/-- The value of a digit in the base 10 or 16. -/
def digitValue (base : Nat) (c : Char) : Option Nat :=
  let n := c.toNat
  let v :=
    if 48 ≤ n ∧ n ≤ 57 then some (n - 48)
    else if 65 ≤ n ∧ n ≤ 70 then some (n - 55)
    else if 97 ≤ n ∧ n ≤ 102 then some (n - 87)
    else none
  v.bind fun d => if d < base then some d else none

/-- The number that digits denote after the value `acc`. -/
def digits (base acc : Nat) : List Char → Option Nat
  | [] => some acc
  | c :: cs => (digitValue base c).bind fun d => digits base (acc * base + d) cs

/-- R72: a number is decimal or `0x` hexadecimal, with at least one digit. -/
def parseNumber (cs : List Char) : Option Nat :=
  match cs with
  | [] => none
  | '0' :: 'x' :: h :: hs => digits 16 0 (h :: hs)
  | c :: rest => digits 10 0 (c :: rest)

/-- The parts of a text between the separators `sep`, empty ones among them. -/
def splitAt (sep : Char → Bool) : List Char → List (List Char)
  | [] => [[]]
  | c :: cs =>
    match splitAt sep cs with
    | [] => [[]]
    | p :: ps => if sep c then [] :: p :: ps else (c :: p) :: ps

/-- The words of a text. -/
def wordsOf (cs : List Char) : List (List Char) := (splitAt isBlank cs).filter (fun w => !w.isEmpty)

/-- All the numbers, or `none` if one part is no single number. -/
def numbers : List (List (List Char)) → Option (List Nat)
  | [] => some []
  | [w] :: rest => (parseNumber w).bind fun n => (numbers rest).map (n :: ·)
  | _ :: _ => none

/-- R72: a text line, its comment dropped, split at commas and each part into words: the port's name opens the first part
and, on an ENC line, the mnemonic opens the second. -/
def parseLine (text : List Char) : Except AsmError Line :=
  let parts := (splitAt (· == ',') (text.takeWhile (· != ';'))).map wordsOf
  let line : Option Line :=
    match parts with
    | [['E', 'N', 'C'], c] :: (m :: first) :: more =>
      (parseNumber c).bind fun cable =>
      (kindOfName m).bind fun k =>
        match first, more with
        | [], [] => some (.enc cable k [])
        | _, _ => (numbers (first :: more)).map (.enc cable k ·)
    | [['D', 'E', 'C'], w] :: more =>
      match numbers ([w] :: more) with
      | some [b0, b1, b2, b3] => some (.dec b0 b1 b2 b3)
      | _ => none
    | [[['N', 'S', 'P', 'L', 'I', 'T'], w]] => (parseNumber w).map .nsplit
    | [[['N', 'C', 'O', 'M', 'B'], h], [l]] =>
      (parseNumber h).bind fun high => (parseNumber l).map fun low => .ncomb high low
    | [[['N', 'M', 'A', 'K', 'E'], w]] => (parseNumber w).map .nmake
    | _ => none
  match line with
  | some l => .ok l
  | none => .error .malformed

/-- R72: the invocation a text line assembles to. -/
def assembleText (text : List Char) : Except AsmError Invocation :=
  match parseLine text with
  | .ok l => assembleLine l
  | .error e => .error e

end Sys2Proof.Machine
end

