-- ==== Sys2Proof/Machine/RawEncoder.lean ====
section
/-! DEFINITION. The Raw encoder as one function of the Message (spec/41_messages.md R120): total over the 17 variants, each
of which has exactly one (status, payload) pair. -/

namespace Sys2Proof.Machine

/-- R120 `raw(m)`. -/
def raw : Message → Raw
  | .noteOff channel note velocity => rawNoteOff channel note velocity
  | .noteOn channel note velocity => rawNoteOn channel note velocity
  | .polyKeyPressure channel note pressure => rawPolyKeyPressure channel note pressure
  | .controlChange channel controller value => rawControlChange channel controller value
  | .programChange channel program => rawProgramChange channel program
  | .channelPressure channel pressure => rawChannelPressure channel pressure
  | .pitchBend channel lsb msb => rawPitchBend channel lsb msb
  | .mtcQuarterFrame data => rawMtcQuarterFrame data
  | .songPosition lsb msb => rawSongPosition lsb msb
  | .songSelect song => rawSongSelect song
  | .tuneRequest => rawTuneRequest
  | .timingClock => rawTimingClock
  | .start => rawStart
  | .continue_ => rawContinue
  | .stop => rawStop
  | .activeSensing => rawActiveSensing
  | .systemReset => rawSystemReset

end Sys2Proof.Machine
end

