-- ==== Sys2Proof/Machine/Transport.lean ====
section
/-! DEFINITION. The transport's side of the ports (spec/60_exceptions.md R252, spec/70_reset_and_hazards.md R280 to R286):
the reset input, presenting an invocation, reading a result without touching an unspecified output, running a host-side list of
invocations (spec/10_state.md R21), and the pure functions the ports are (R20). -/

namespace Sys2Proof.Machine

/-- R280, R281: the reset input of an implementation that has one. It initialises nothing: the parameters, the inputs the
transport drives and the outputs, functions of them, stay. As in `State.reset`, no invocation is in progress afterwards
(DESIGN CHOICE, safe, log 16). -/
def State.resetInput (s : State) : State := { s with invoked := none }

/-- R252: apply the inputs of one port and invoke it. The inputs of the other ports, every output and the parameters stay. -/
def State.present (s : State) (inv : Invocation) : State :=
  match inv with
  | .enc e => { s with invoked := some .enc, encIn := e }
  | .dec p => { s with invoked := some .dec, decIn := .ofPacket p }
  | .nsplit b => { s with invoked := some .nsplit, nsIn := b }
  | .ncomb h l => { s with invoked := some .ncomb, ncIn := { high := h, low := l } }
  | .nmake v => { s with invoked := some .nmake, nmIn := v }

/-- R18: one invocation, from applying its inputs to its outputs. -/
def invoke (s : State) (inv : Invocation) : Host.Outcome State Fault Refusal := step (s.present inv)

/-! ### Reading results (R15, R286: no output the spec leaves unspecified is read) -/

/-- R28: the packet when `enc_ok = 1`, else `InvalidKind`. -/
def readEncode (s : State) : Result :=
  if s.encOut.ok then .packet s.encOut.pkt.packet else .error (.invalidKind s.encIn.kind)

/-- R29, R206, R242: the cable and message when `dec_ok = 1`, else the rejection; `none` where the indicators hold a code
the block never produces. `messageOf` reads only the fields the kind has. -/
def readDecode (s : State) : Option Result :=
  if s.decOut.ok then
    match Kind.ofCode s.decOut.kind with
    | some k => some (.event ⟨s.decOut.cable, messageOf k s.decOut.chan s.decOut.d1 s.decOut.d2⟩)
    | none => none
  else
    match Reason.ofCode s.decOut.reason with
    | some r => some (.error (.invalidPacket r))
    | none => none

/-- R30, R241: the nibble when `nm_ok = 1`, else `OutOfRange` of the caller's own input. -/
def readNmake (s : State) : Result :=
  if s.nmOut.ok then .nibble s.nmOut.nib else .error (.outOfRange s.nmIn)

/-- R15: what the invocation in progress returned to its caller. -/
def State.result (s : State) : Option Result :=
  match s.invoked with
  | none => none
  | some .enc => some (readEncode s)
  | some .dec => readDecode s
  | some .nsplit => some (.nibbles s.nsOut.high s.nsOut.low)
  | some .ncomb => some (.byte s.ncOut)
  | some .nmake => some (readNmake s)

/-- R21: a host-side list of invocations, run in order; the results, one for each. -/
def transcript : State → List Invocation → List (Option Result)
  | _, [] => []
  | s, inv :: rest =>
    match invoke s inv with
    | .next t => t.result :: transcript t rest
    | .fault _ => []
    | .refused _ => []

/-! ### The ports as pure functions (R20) -/

/-- R20: the function a port is, of its inputs and the parameters alone. Written from the encoding tables, not from `step`. -/
def portFunction (c : Params) : Invocation → Result
  | .enc e =>
    match decodeEncIn e with
    | some i => .packet (encode i)
    | none => .error (.invalidKind e.kind)
  | .dec p =>
    match decodePacket c p with
    | .ok i => .event i.event
    | .error r => .error (.invalidPacket r)
  | .nsplit b => .nibbles (highNibble b) (lowNibble b)
  | .ncomb h l => .byte (h ++ l)
  | .nmake v => if v.toNat ≤ 15 then .nibble (v.setWidth 4) else .error (.outOfRange v)

/-! ### A packet outside the block -/

/-- R252: the bytes the transport writes to the endpoint, in index order 0 to 3. -/
def packetBytes (p : Packet) : List Byte := [p.b0, p.b1, p.b2, p.b3]

/-- R44: the 32-bit little-endian word a transport might hold a packet in, byte 0 in bits 7 to 0. The placement is the
transport's; no rule of the block reads it (92 D13). -/
def transportWord (p : Packet) : BitVec 32 := p.b3 ++ p.b2 ++ p.b1 ++ p.b0

end Sys2Proof.Machine
end

