-- ==== Sys2Proof/Safety.lean ====
section
/-! DEFINITION. What claims about a run are stated in: that a step answers a next state, that the packets keep their
canonical form, and that the outputs of every port are the ones the rules give for its inputs. -/

namespace Sys2Proof

open Machine

/-- The step from `s` answers a next state: no fault, no refusal (R210). -/
def Completes (s : State) : Prop := ∃ t, step s = .next t

/-- Both packets are in the canonical form of Machine/Ops.lean. -/
abbrev PacketsCanonical (s : State) : Prop := s.encOut.pkt.wf = true ∧ s.decIn.wf = true

/-- R31, R36 for the encode port: `enc_ok` and, where it is 1, `enc_pkt` are what R180 gives for the inputs. -/
def EncodePortAgrees (s : State) : Prop :=
  match decodeEncIn s.encIn with
  | some i => s.encOut.ok = true ∧ s.encOut.pkt.packet = encode i
  | none => s.encOut.ok = false

/-- R31, R36 for the decode port: `dec_ok`, `dec_reason` and the value outputs the kind uses are what R200 gives for the
packet and the parameters. -/
def DecodePortAgrees (s : State) : Prop :=
  match decodePacket s.params s.decIn.packet with
  | .ok i =>
    s.decOut.ok = true ∧ s.decOut.reason = 0#3 ∧ s.decOut.cable = i.cable ∧ s.decOut.kind = i.kind.code ∧
      messageOf i.kind s.decOut.chan s.decOut.d1 s.decOut.d2 = i.message
  | .error r => s.decOut.ok = false ∧ s.decOut.reason = r.code

/-- R31, R36 for the nibble ports (R100 to R102). -/
def NibblePortsAgree (s : State) : Prop :=
  s.nsOut.high ++ s.nsOut.low = s.nsIn ∧ s.ncOut = s.ncIn.high ++ s.ncIn.low ∧
    s.nmOut.ok = decide (s.nmIn.toNat ≤ 15) ∧ (s.nmOut.ok = true → s.nmOut.nib.toNat = s.nmIn.toNat)

/-- R31, R36, R280: the outputs of every port are the functions of its inputs that the rules give. -/
structure PortsAgree (s : State) : Prop where
  canonical : PacketsCanonical s
  encode : EncodePortAgrees s
  decode : DecodePortAgrees s
  nibbles : NibblePortsAgree s

/-- R242, R183, R164: what every reachable value of the indicators satisfies, whatever the inputs: `dec_reason` is 0 exactly
when `dec_ok = 1` and never 6 or 7, a decoded kind is a defined one, and a packet sent out has a header and a status byte. -/
structure IndicatorsLegal (s : State) : Prop where
  reasonNone : s.decOut.ok = true ↔ s.decOut.reason = 0#3
  reasonBound : s.decOut.reason.toNat ≤ 5
  kindDefined : s.decOut.ok = true → (Kind.ofCode s.decOut.kind).isSome = true
  packetFramed : s.encOut.ok = true → ∃ i, s.encOut.pkt.packet = encode i

/-- The frame of an invocation of port `p` (R32, R35, R47, R244): parameters, inputs, the choice of port and the outputs of
every other port stay, the bytes of `dec_pkt` and (for another port than ENC) of `enc_pkt` among them. -/
structure OnlyPortMoved (p : Port) (s t : State) : Prop where
  params : t.params = s.params
  invoked : t.invoked = s.invoked
  encIn : t.encIn = s.encIn
  decIn : t.decIn = s.decIn
  nsIn : t.nsIn = s.nsIn
  ncIn : t.ncIn = s.ncIn
  nmIn : t.nmIn = s.nmIn
  encOut : p ≠ .enc → t.encOut = s.encOut
  decOut : p ≠ .dec → t.decOut = s.decOut
  nsOut : p ≠ .nsplit → t.nsOut = s.nsOut
  ncOut : p ≠ .ncomb → t.ncOut = s.ncOut
  nmOut : p ≠ .nmake → t.nmOut = s.nmOut

/-- What a per-kind rule of spec/41_messages.md says of instruction `i` on the encode port: its kind code is `code`, its
packet is `pkt`, of the row with this match, mask and strict mask, and running it puts exactly that packet on the port with
`enc_ok = 1` and changes nothing else (but the model's own counter of free values). -/
structure SendsPacket (i : Instr) (code : KindCode) (pattern mask strictMask : BitVec 32) (pkt : Packet) : Prop where
  code : i.kind.code = code
  mask : pkt.pkt32 &&& mask = pattern
  strictMask : pkt.pkt32 &&& strictMask = pattern
  sends : ∀ s : State, s.invoked = some .enc →
    exec i s = .next { s with encOut := { pkt := .ofPacket pkt, ok := true }, draws := s.draws + 1 }

/-- What R206 says of instruction `i` on the decode port: running it gives `dec_ok = 1`, `dec_reason = 0`, the cable, the
kind code, and the fields the kind has (`none`: the kind has no such field, and the output may be any value), and changes
nothing else. -/
def DeliversMessage (i : Instr) (cable : CableNumber) (code : KindCode) (chan : Option Channel) (d1 d2 : Option U7) : Prop :=
  ∀ s : State, s.invoked = some .dec →
    ∃ t, exec i s = .next t ∧ OnlyPortMoved .dec s t ∧ t.decOut.ok = true ∧ t.decOut.reason = 0#3 ∧
      t.decOut.cable = cable ∧ t.decOut.kind = code ∧ (∀ c, chan = some c → t.decOut.chan = c) ∧
      (∀ d, d1 = some d → t.decOut.d1 = d) ∧ (∀ d, d2 = some d → t.decOut.d2 = d)

/-- R67: how many data bytes a packet's CIN says it carries. -/
def cinDataBytes (cin : CodeIndexNumber) : Nat :=
  if cin = 0x5#4 ∨ cin = 0xF#4 then 0 else if cin = 0x2#4 ∨ cin = 0xC#4 ∨ cin = 0xD#4 then 1 else 2

/-- R202: the CIN values with no category in this block. -/
abbrev CinHasNoCategory (cin : CodeIndexNumber) : Prop :=
  cin = 0x0#4 ∨ cin = 0x1#4 ∨ cin = 0x4#4 ∨ cin = 0x6#4 ∨ cin = 0x7#4

/-- R203: the status bytes a CIN admits. -/
abbrev CinAdmits (cin : CodeIndexNumber) (st : Byte) : Prop :=
  (0x8 ≤ cin.toNat ∧ cin.toNat ≤ 0xE ∧ st.extractLsb' 4 4 = cin) ∨
  (cin = 0x2#4 ∧ (st = 0xF1#8 ∨ st = 0xF3#8)) ∨ (cin = 0x3#4 ∧ st = 0xF2#8) ∨ (cin = 0x5#4 ∧ st = 0xF6#8) ∨
  (cin = 0xF#4 ∧ (st = 0xF8#8 ∨ st = 0xFA#8 ∨ st = 0xFB#8 ∨ st = 0xFC#8 ∨ st = 0xFE#8 ∨ st = 0xFF#8))

/-- R205: a used data byte of the packet is 0x80 or more. -/
abbrev HasDataOutOfRange (p : Packet) : Prop :=
  (1 ≤ cinDataBytes (p.b0.extractLsb' 0 4) ∧ 0x80 ≤ p.b2.toNat) ∨
  (cinDataBytes (p.b0.extractLsb' 0 4) = 2 ∧ 0x80 ≤ p.b3.toNat)

/-- R207: every unused data byte of the packet is 0x00. -/
abbrev UnusedBytesZero (p : Packet) : Prop :=
  (cinDataBytes (p.b0.extractLsb' 0 4) = 0 → p.b2 = 0x00#8) ∧ (cinDataBytes (p.b0.extractLsb' 0 4) ≤ 1 → p.b3 = 0x00#8)

/-- R242, R247: what `dec_reason` reports for a packet, by the causes in their priority (1 STUB, 2 CIN, 3 STATUS, 4 DATA,
5 PAD), and 0 when there is none. -/
structure FirstCause (c : Params) (p : Packet) (reason : BitVec 3) : Prop where
  stub : c.decodeStub = true → reason = 1#3
  cin : c.decodeStub = false → CinHasNoCategory (p.b0.extractLsb' 0 4) → reason = 2#3
  status : c.decodeStub = false → ¬CinHasNoCategory (p.b0.extractLsb' 0 4) →
    ¬CinAdmits (p.b0.extractLsb' 0 4) p.b1 → reason = 3#3
  data : c.decodeStub = false → CinAdmits (p.b0.extractLsb' 0 4) p.b1 → HasDataOutOfRange p → reason = 4#3
  pad : c.decodeStub = false → CinAdmits (p.b0.extractLsb' 0 4) p.b1 → ¬HasDataOutOfRange p →
    c.padCheck = .reject → ¬UnusedBytesZero p → reason = 5#3
  none : c.decodeStub = false → CinAdmits (p.b0.extractLsb' 0 4) p.b1 → ¬HasDataOutOfRange p →
    (c.padCheck = .ignore ∨ UnusedBytesZero p) → reason = 0#3

end Sys2Proof
end

