-- ==== Sys2Proof/Certificates/Slice0/Obligations.lean ====
section
/-! DEFINITION. The statements for the provers. Titles, rules and quotes stand in OBLIGATIONS.json. A statement never rests on
the value of a free value: it holds whatever `draws` is (log 7). -/

open Sys2Proof Sys2Proof.Machine

/-! ### Decoding and the step -/

/-- One word of each family, bit by bit as the tables of R69 and 95_test_vectors.md give it; a reserved CIN is refused. -/
def Obligations.TableWordsDecode : Prop :=
  decodeTableWord 32 0x09913C64 = some (.noteOn 0 1 60 100) ∧
  decodeTableWord 32 0x2DD93000 = some (.channelPressure 2 9 48) ∧
  decodeTableWord 32 0x03F21002 = some (.songPosition 0 16 2) ∧
  decodeTableWord 32 0x05F60000 = some (.tuneRequest 0) ∧
  decodeTableWord 32 0xFFFA0000 = some (.start 15) ∧
  decodeTableWord 32 0x00903C64 = none

/-- A step on a message port is `exec` of the instruction its inputs decode to, at the very same state. -/
def Obligations.StepRunsTheDecodedInstruction : Prop :=
  (∀ (s : State) (i : Instr), s.invoked = some .dec → decodePacket s.params s.decIn.packet = .ok i → step s = exec i s) ∧
  (∀ (s : State) (i : Instr), s.invoked = some .enc → decodeEncIn s.encIn = some i → step s = exec i s)

/-- A table word that decodes is run by the very next step after `withFetchWord` (log 12). -/
def Obligations.FetchWordIsRunNext : Prop :=
  ∀ (s : State) (nbits w : Nat) (i : Instr), s.params = .default → decodeTableWord nbits w = some i →
    step (s.withFetchWord nbits w) = exec i (s.withFetchWord nbits w)

/-! ### Encodings -/

/-- Decode and encode agree, for every instruction and every parameter setting but the stub. -/
def Obligations.DecodeOfEncodeIsTheInstruction : Prop :=
  ∀ (c : Params) (i : Instr), c.decodeStub = false → i.wellFormed = true → decodePacket c (encode i) = .ok i

/-- R209's three laws: ENC then DEC returns the message; DEC then ENC returns the packet exactly when its unused bytes are 0
(always, when unused bytes are checked); under the stub the first law fails for every input. -/
def Obligations.RoundTripLaws : Prop :=
  (∀ (s : State) (i : Instr), s.params.decodeStub = false →
    ∃ t u, invoke s (.enc (encodeEncIn i)) = .next t ∧ invoke t (.dec t.encOut.pkt.packet) = .next u ∧
      u.result = some (.event i.event)) ∧
  (∀ (c : Params) (b : Packet) (i : Instr), decodePacket c b = .ok i →
    (encode i = b ↔ UnusedBytesZero b) ∧ (c.padCheck = .reject → encode i = b)) ∧
  (∀ (s : State) (i : Instr), s.params.decodeStub = true →
    ∃ t u, invoke s (.enc (encodeEncIn i)) = .next t ∧ invoke t (.dec t.encOut.pkt.packet) = .next u ∧
      u.result ≠ some (.event i.event))

/-- R66: the fields of ENCW, and what the assembler writes: whatever ENC line assembles, every field its kind does not use
is 0 in the inputs it assembles to (and so in `encodeEncIn`, the inputs for an instruction). -/
def Obligations.ListingWordFields : Prop :=
  (∀ e : EncIn, e.encw.extractLsb' 23 4 = e.cable ∧ e.encw.extractLsb' 18 5 = e.kind ∧ e.encw.extractLsb' 14 4 = e.chan ∧
    e.encw.extractLsb' 7 7 = e.d1 ∧ e.encw.extractLsb' 0 7 = e.d2) ∧
  (∀ w : BitVec 27, (EncIn.ofEncw w).encw = w) ∧
  (∀ (cable : Nat) (k : Kind) (fields : List Nat) (e : EncIn), assembleLine (.enc cable k fields) = .ok (.enc e) →
    e.kind = k.code ∧ (k.isChannelVoice = false → e.chan = 0#4) ∧ (k.ndata = 0 → e.d1 = 0#7) ∧
    (k.ndata ≤ 1 → e.d2 = 0#7)) ∧
  (∀ i : Instr, (i.kind.isChannelVoice = false → (encodeEncIn i).chan = 0#4) ∧
    (i.kind.ndata = 0 → (encodeEncIn i).d1 = 0#7) ∧ (i.kind.ndata ≤ 1 → (encodeEncIn i).d2 = 0#7))

/-- The descriptor round trip: the encode port's inputs for an instruction spell that instruction, and inputs that spell an
instruction are its inputs but for unused fields. -/
def Obligations.DescriptorRoundTrip : Prop :=
  (∀ i : Instr, decodeEncIn (encodeEncIn i) = some i) ∧
  (∀ (e : EncIn) (i : Instr), decodeEncIn e = some i →
    i.cable = e.cable ∧ i.kind.code = e.kind ∧ (i.kind.isChannelVoice = true → (encodeEncIn i).chan = e.chan) ∧
    (1 ≤ i.kind.ndata → (encodeEncIn i).d1 = e.d1) ∧ (i.kind.ndata = 2 → (encodeEncIn i).d2 = e.d2))

/-- R69: the table; a packet is of a kind exactly when it matches the kind's row (strictly, when unused bytes are checked);
the Cable Number is in no mask; no packet matches two rows. -/
def Obligations.PatternTableClassifiesPackets : Prop :=
  [Kind.noteOff, .noteOn, .polyKeyPressure, .controlChange, .programChange, .channelPressure, .pitchBend,
    .mtcQuarterFrame, .songPosition, .songSelect, .tuneRequest, .timingClock, .start, .continue_, .stop,
    .activeSensing, .systemReset].map Kind.row =
    [⟨0x08800000#32, 0x0FF08080#32, 0x0FF08080#32⟩, ⟨0x09900000#32, 0x0FF08080#32, 0x0FF08080#32⟩,
     ⟨0x0AA00000#32, 0x0FF08080#32, 0x0FF08080#32⟩, ⟨0x0BB00000#32, 0x0FF08080#32, 0x0FF08080#32⟩,
     ⟨0x0CC00000#32, 0x0FF08000#32, 0x0FF080FF#32⟩, ⟨0x0DD00000#32, 0x0FF08000#32, 0x0FF080FF#32⟩,
     ⟨0x0EE00000#32, 0x0FF08080#32, 0x0FF08080#32⟩, ⟨0x02F10000#32, 0x0FFF8000#32, 0x0FFF80FF#32⟩,
     ⟨0x03F20000#32, 0x0FFF8080#32, 0x0FFF8080#32⟩, ⟨0x02F30000#32, 0x0FFF8000#32, 0x0FFF80FF#32⟩,
     ⟨0x05F60000#32, 0x0FFF0000#32, 0x0FFFFFFF#32⟩, ⟨0x0FF80000#32, 0x0FFF0000#32, 0x0FFFFFFF#32⟩,
     ⟨0x0FFA0000#32, 0x0FFF0000#32, 0x0FFFFFFF#32⟩, ⟨0x0FFB0000#32, 0x0FFF0000#32, 0x0FFFFFFF#32⟩,
     ⟨0x0FFC0000#32, 0x0FFF0000#32, 0x0FFFFFFF#32⟩, ⟨0x0FFE0000#32, 0x0FFF0000#32, 0x0FFFFFFF#32⟩,
     ⟨0x0FFF0000#32, 0x0FFF0000#32, 0x0FFFFFFF#32⟩] ∧
  (∀ (c : Params) (p : Packet) (k : Kind), c.decodeStub = false →
    ((∃ i, decodePacket c p = .ok i ∧ i.kind = k) ↔ p.pkt32 &&& k.row.maskFor c.padCheck = k.row.pattern)) ∧
  (∀ (k : Kind) (c : PadCheck), k.row.maskFor c &&& 0xF0000000#32 = 0#32) ∧
  (∀ (p : Packet) (k k' : Kind), p.pkt32 &&& k.row.mask = k.row.pattern → p.pkt32 &&& k'.row.mask = k'.row.pattern → k = k')

/-- The two designs of encode agree: what the machine's ENC puts on the port (header by combine and CIN_OF, R181; status and
payload by the Raw encoder, R120; placement by payload shape, R182) is the packet the opcode table's bit patterns spell. -/
def Obligations.EncodePortSendsTheTablePacket : Prop :=
  ∀ (s : State) (i : Instr), s.invoked = some .enc →
    ∃ t, exec i s = .next t ∧ t.encOut.ok = true ∧ t.encOut.pkt.packet = encode i ∧ OnlyPortMoved .enc s t

/-! ### Every instruction on the encode port (R122 to R138) -/

/-- R122 to R125 and R128: the channel-voice kinds with two data bytes. -/
def Obligations.ChannelVoiceDoubleByteSends : Prop :=
  ∀ (cn : CableNumber) (ch : Channel) (a b : U7),
    SendsPacket (.noteOff cn ch a b) 0x08#5 0x08800000#32 0x0FF08080#32 0x0FF08080#32
      ⟨(cn.setWidth 8 <<< 4) ||| 0x08#8, 0x80#8 ||| ch.setWidth 8, a.setWidth 8, b.setWidth 8⟩ ∧
    SendsPacket (.noteOn cn ch a b) 0x09#5 0x09900000#32 0x0FF08080#32 0x0FF08080#32
      ⟨(cn.setWidth 8 <<< 4) ||| 0x09#8, 0x90#8 ||| ch.setWidth 8, a.setWidth 8, b.setWidth 8⟩ ∧
    SendsPacket (.polyKeyPressure cn ch a b) 0x0A#5 0x0AA00000#32 0x0FF08080#32 0x0FF08080#32
      ⟨(cn.setWidth 8 <<< 4) ||| 0x0A#8, 0xA0#8 ||| ch.setWidth 8, a.setWidth 8, b.setWidth 8⟩ ∧
    SendsPacket (.controlChange cn ch a b) 0x0B#5 0x0BB00000#32 0x0FF08080#32 0x0FF08080#32
      ⟨(cn.setWidth 8 <<< 4) ||| 0x0B#8, 0xB0#8 ||| ch.setWidth 8, a.setWidth 8, b.setWidth 8⟩ ∧
    SendsPacket (.pitchBend cn ch a b) 0x0E#5 0x0EE00000#32 0x0FF08080#32 0x0FF08080#32
      ⟨(cn.setWidth 8 <<< 4) ||| 0x0E#8, 0xE0#8 ||| ch.setWidth 8, a.setWidth 8, b.setWidth 8⟩ ∧
    decodeEncIn ⟨cn, 0x08#5, ch, a, b⟩ = some (.noteOff cn ch a b) ∧
    decodeEncIn ⟨cn, 0x09#5, ch, a, b⟩ = some (.noteOn cn ch a b) ∧
    decodeEncIn ⟨cn, 0x0A#5, ch, a, b⟩ = some (.polyKeyPressure cn ch a b) ∧
    decodeEncIn ⟨cn, 0x0B#5, ch, a, b⟩ = some (.controlChange cn ch a b) ∧
    decodeEncIn ⟨cn, 0x0E#5, ch, a, b⟩ = some (.pitchBend cn ch a b)

/-- R126, R127: the channel-voice kinds with one data byte; `enc_d2` is ignored. -/
def Obligations.ChannelVoiceSingleByteSends : Prop :=
  ∀ (cn : CableNumber) (ch : Channel) (a unused : U7),
    SendsPacket (.programChange cn ch a) 0x0C#5 0x0CC00000#32 0x0FF08000#32 0x0FF080FF#32
      ⟨(cn.setWidth 8 <<< 4) ||| 0x0C#8, 0xC0#8 ||| ch.setWidth 8, a.setWidth 8, 0x00#8⟩ ∧
    SendsPacket (.channelPressure cn ch a) 0x0D#5 0x0DD00000#32 0x0FF08000#32 0x0FF080FF#32
      ⟨(cn.setWidth 8 <<< 4) ||| 0x0D#8, 0xD0#8 ||| ch.setWidth 8, a.setWidth 8, 0x00#8⟩ ∧
    decodeEncIn ⟨cn, 0x0C#5, ch, a, unused⟩ = some (.programChange cn ch a) ∧
    decodeEncIn ⟨cn, 0x0D#5, ch, a, unused⟩ = some (.channelPressure cn ch a)

/-- R129 to R132: the System Common kinds; unused inputs are ignored. -/
def Obligations.SystemCommonSends : Prop :=
  ∀ (cn : CableNumber) (ch : Channel) (a b : U7),
    SendsPacket (.mtcQuarterFrame cn a) 0x11#5 0x02F10000#32 0x0FFF8000#32 0x0FFF80FF#32
      ⟨(cn.setWidth 8 <<< 4) ||| 0x02#8, 0xF1#8, a.setWidth 8, 0x00#8⟩ ∧
    SendsPacket (.songPosition cn a b) 0x12#5 0x03F20000#32 0x0FFF8080#32 0x0FFF8080#32
      ⟨(cn.setWidth 8 <<< 4) ||| 0x03#8, 0xF2#8, a.setWidth 8, b.setWidth 8⟩ ∧
    SendsPacket (.songSelect cn a) 0x13#5 0x02F30000#32 0x0FFF8000#32 0x0FFF80FF#32
      ⟨(cn.setWidth 8 <<< 4) ||| 0x02#8, 0xF3#8, a.setWidth 8, 0x00#8⟩ ∧
    SendsPacket (.tuneRequest cn) 0x16#5 0x05F60000#32 0x0FFF0000#32 0x0FFFFFFF#32
      ⟨(cn.setWidth 8 <<< 4) ||| 0x05#8, 0xF6#8, 0x00#8, 0x00#8⟩ ∧
    decodeEncIn ⟨cn, 0x11#5, ch, a, b⟩ = some (.mtcQuarterFrame cn a) ∧
    decodeEncIn ⟨cn, 0x12#5, ch, a, b⟩ = some (.songPosition cn a b) ∧
    decodeEncIn ⟨cn, 0x13#5, ch, a, b⟩ = some (.songSelect cn a) ∧
    decodeEncIn ⟨cn, 0x16#5, ch, a, b⟩ = some (.tuneRequest cn)

/-- R133 to R138: the System Real-Time kinds; every input but cable and kind is ignored. -/
def Obligations.SystemRealTimeSends : Prop :=
  ∀ (cn : CableNumber) (ch : Channel) (a b : U7),
    SendsPacket (.timingClock cn) 0x18#5 0x0FF80000#32 0x0FFF0000#32 0x0FFFFFFF#32
      ⟨(cn.setWidth 8 <<< 4) ||| 0x0F#8, 0xF8#8, 0x00#8, 0x00#8⟩ ∧
    SendsPacket (.start cn) 0x1A#5 0x0FFA0000#32 0x0FFF0000#32 0x0FFFFFFF#32
      ⟨(cn.setWidth 8 <<< 4) ||| 0x0F#8, 0xFA#8, 0x00#8, 0x00#8⟩ ∧
    SendsPacket (.continue_ cn) 0x1B#5 0x0FFB0000#32 0x0FFF0000#32 0x0FFFFFFF#32
      ⟨(cn.setWidth 8 <<< 4) ||| 0x0F#8, 0xFB#8, 0x00#8, 0x00#8⟩ ∧
    SendsPacket (.stop cn) 0x1C#5 0x0FFC0000#32 0x0FFF0000#32 0x0FFFFFFF#32
      ⟨(cn.setWidth 8 <<< 4) ||| 0x0F#8, 0xFC#8, 0x00#8, 0x00#8⟩ ∧
    SendsPacket (.activeSensing cn) 0x1E#5 0x0FFE0000#32 0x0FFF0000#32 0x0FFFFFFF#32
      ⟨(cn.setWidth 8 <<< 4) ||| 0x0F#8, 0xFE#8, 0x00#8, 0x00#8⟩ ∧
    SendsPacket (.systemReset cn) 0x1F#5 0x0FFF0000#32 0x0FFF0000#32 0x0FFFFFFF#32
      ⟨(cn.setWidth 8 <<< 4) ||| 0x0F#8, 0xFF#8, 0x00#8, 0x00#8⟩ ∧
    decodeEncIn ⟨cn, 0x18#5, ch, a, b⟩ = some (.timingClock cn) ∧
    decodeEncIn ⟨cn, 0x1A#5, ch, a, b⟩ = some (.start cn) ∧
    decodeEncIn ⟨cn, 0x1B#5, ch, a, b⟩ = some (.continue_ cn) ∧
    decodeEncIn ⟨cn, 0x1C#5, ch, a, b⟩ = some (.stop cn) ∧
    decodeEncIn ⟨cn, 0x1E#5, ch, a, b⟩ = some (.activeSensing cn) ∧
    decodeEncIn ⟨cn, 0x1F#5, ch, a, b⟩ = some (.systemReset cn)

/-! ### Every instruction on the decode port -/

/-- The channel-voice kinds on the decode port (R206). -/
def Obligations.ChannelVoiceDelivers : Prop :=
  ∀ (cn : CableNumber) (ch : Channel) (a b : U7),
    DeliversMessage (.noteOff cn ch a b) cn 0x08#5 (some ch) (some a) (some b) ∧
    DeliversMessage (.noteOn cn ch a b) cn 0x09#5 (some ch) (some a) (some b) ∧
    DeliversMessage (.polyKeyPressure cn ch a b) cn 0x0A#5 (some ch) (some a) (some b) ∧
    DeliversMessage (.controlChange cn ch a b) cn 0x0B#5 (some ch) (some a) (some b) ∧
    DeliversMessage (.programChange cn ch a) cn 0x0C#5 (some ch) (some a) none ∧
    DeliversMessage (.channelPressure cn ch a) cn 0x0D#5 (some ch) (some a) none ∧
    DeliversMessage (.pitchBend cn ch a b) cn 0x0E#5 (some ch) (some a) (some b)

/-- The System Common kinds on the decode port (R206). -/
def Obligations.SystemCommonDelivers : Prop :=
  ∀ (cn : CableNumber) (a b : U7),
    DeliversMessage (.mtcQuarterFrame cn a) cn 0x11#5 none (some a) none ∧
    DeliversMessage (.songPosition cn a b) cn 0x12#5 none (some a) (some b) ∧
    DeliversMessage (.songSelect cn a) cn 0x13#5 none (some a) none ∧
    DeliversMessage (.tuneRequest cn) cn 0x16#5 none none none

/-- The System Real-Time kinds on the decode port (R206). -/
def Obligations.SystemRealTimeDelivers : Prop :=
  ∀ cn : CableNumber,
    DeliversMessage (.timingClock cn) cn 0x18#5 none none none ∧
    DeliversMessage (.start cn) cn 0x1A#5 none none none ∧
    DeliversMessage (.continue_ cn) cn 0x1B#5 none none none ∧
    DeliversMessage (.stop cn) cn 0x1C#5 none none none ∧
    DeliversMessage (.activeSensing cn) cn 0x1E#5 none none none ∧
    DeliversMessage (.systemReset cn) cn 0x1F#5 none none none

/-- The model's own choice (log 2): where no message port is in use, `exec` answers the state it was given. -/
def Obligations.MessagesMoveOnlyMessagePorts : Prop :=
  ∀ (s : State) (i : Instr), s.invoked ≠ some .enc → s.invoked ≠ some .dec → exec i s = .next s

/-! ### The Raw encoder and the CIN classifier -/

/-- R139: the payload shape of every kind, and no other. -/
def Obligations.PayloadArity : Prop :=
  ∀ m : Message,
    (m.kind ∈ [Kind.noteOff, .noteOn, .polyKeyPressure, .controlChange, .pitchBend, .songPosition] ↔
      ∃ a b, (raw m).payload = .doubleByte a b) ∧
    (m.kind ∈ [Kind.programChange, .channelPressure, .mtcQuarterFrame, .songSelect] ↔
      ∃ a, (raw m).payload = .singleByte a) ∧
    (m.kind ∈ [Kind.tuneRequest, .timingClock, .start, .continue_, .stop, .activeSensing, .systemReset] ↔
      (raw m).payload = .empty)

/-- R140: a status byte has bit 7 set, and the data bytes of what ENC sends have it clear. -/
def Obligations.StatusByteHasBit7DataBytesDoNot : Prop :=
  ∀ (s : State) (i : Instr), s.invoked = some .enc →
    ∃ t, exec i s = .next t ∧ (raw i.message).status.msb = true ∧ (t.encOut.pkt.read 1).msb = true ∧
      (t.encOut.pkt.read 2).msb = false ∧ (t.encOut.pkt.read 3).msb = false

/-- R141: the channel field of every channel-voice message is the low nibble of its status byte, with no offset. -/
def Obligations.ChannelCarriedUnchanged : Prop :=
  ∀ m : Message, m.kind.isChannelVoice = true → m.chan? = some ((raw m).status.extractLsb' 0 4)

/-- R161: the table, and that the CIN on the port depends on the kind only. -/
def Obligations.CinTableByKind : Prop :=
  [Kind.noteOff, .noteOn, .polyKeyPressure, .controlChange, .programChange, .channelPressure, .pitchBend,
    .mtcQuarterFrame, .songPosition, .songSelect, .tuneRequest, .timingClock, .start, .continue_, .stop,
    .activeSensing, .systemReset].map (fun k => (k.code, cinOf k)) =
    [(0x08#5, 0x8#4), (0x09#5, 0x9#4), (0x0A#5, 0xA#4), (0x0B#5, 0xB#4), (0x0C#5, 0xC#4), (0x0D#5, 0xD#4), (0x0E#5, 0xE#4),
     (0x11#5, 0x2#4), (0x12#5, 0x3#4), (0x13#5, 0x2#4), (0x16#5, 0x5#4), (0x18#5, 0xF#4), (0x1A#5, 0xF#4), (0x1B#5, 0xF#4),
     (0x1C#5, 0xF#4), (0x1E#5, 0xF#4), (0x1F#5, 0xF#4)] ∧
  (∀ (s : State) (i : Instr), s.invoked = some .enc →
    ∃ t, exec i s = .next t ∧ (t.encOut.pkt.read 0).extractLsb' 0 4 = cinOf i.kind)

/-- R162, first and last sentence: a channel-voice CIN is the status category; the two System Common kinds with CIN 0x2
differ in their status byte alone. (Its second sentence is not stated: log 13.) -/
def Obligations.ChannelVoiceCinIsTheStatusCategory : Prop :=
  (∀ m : Message, m.kind.isChannelVoice = true → cinOf m.kind = (raw m).status.extractLsb' 4 4) ∧
  (∀ m : Message, m.kind.isChannelVoice = false → (raw m).status.extractLsb' 4 4 = 0xF#4) ∧
  (∀ a b : U7, cinOf (Message.mtcQuarterFrame a).kind = cinOf (Message.songSelect b).kind ∧
    (raw (.mtcQuarterFrame a)).status ≠ (raw (.songSelect b)).status)

/-- R164: the CIN values the encoder never produces, and that the decode port rejects. -/
def Obligations.CinValuesNeverProduced : Prop :=
  (∀ k : Kind, ¬CinHasNoCategory (cinOf k)) ∧
  (∀ (s t : State), s.invoked = some .enc → step s = .next t → t.encOut.ok = true →
    ¬CinHasNoCategory ((t.encOut.pkt.read 0).extractLsb' 0 4)) ∧
  (∀ (c : Params) (p : Packet), CinHasNoCategory (p.b0.extractLsb' 0 4) → ∃ r, decodePacket c p = .error r)

/-- R67 and R160: the length of the MIDI message a packet carries follows from its CIN alone. -/
def Obligations.MessageLengthFollowsFromTheCin : Prop :=
  ∀ m : Message, 1 + (raw m).payload.length ∈ (cinTable (cinOf m.kind)).midiSizes ∧
    m.kind ∈ (cinTable (cinOf m.kind)).kinds ∧ (raw m).payload.length = cinDataBytes (cinOf m.kind)

/-! ### The encode port -/

/-- R181, R182: the header byte, and bytes 1 to 3 by payload shape. -/
def Obligations.HeaderAndBytePlacement : Prop :=
  ∀ (s : State) (i : Instr), s.invoked = some .enc →
    ∃ t, exec i s = .next t ∧
      t.encOut.pkt.read 0 = (i.cable.setWidth 8 <<< 4) ||| (cinOf i.kind).setWidth 8 ∧
      (t.encOut.pkt.read 0).extractLsb' 4 4 = i.cable ∧ (t.encOut.pkt.read 0).extractLsb' 0 4 = cinOf i.kind ∧
      t.encOut.pkt.read 1 = (raw i.message).status ∧
      ((raw i.message).payload = .empty → t.encOut.pkt.read 2 = 0x00#8 ∧ t.encOut.pkt.read 3 = 0x00#8) ∧
      (∀ b, (raw i.message).payload = .singleByte b →
        t.encOut.pkt.read 2 = b.setWidth 8 ∧ t.encOut.pkt.read 3 = 0x00#8) ∧
      (∀ b1 b2, (raw i.message).payload = .doubleByte b1 b2 →
        t.encOut.pkt.read 2 = b1.setWidth 8 ∧ t.encOut.pkt.read 3 = b2.setWidth 8)

/-- R243, R70: exactly the 15 undefined kind codes raise InvalidKind: `enc_ok = 0`, and nothing but the encode port's outputs
changes. -/
def Obligations.InvalidKindExactlyOnUndefinedCodes : Prop :=
  ∀ s : State, s.invoked = some .enc →
    ∃ t, step s = .next t ∧ OnlyPortMoved .enc s t ∧
      (t.encOut.ok = false ↔ s.encIn.kind ∈ [0x00#5, 0x01#5, 0x02#5, 0x03#5, 0x04#5, 0x05#5, 0x06#5, 0x07#5, 0x0F#5, 0x10#5,
        0x14#5, 0x15#5, 0x17#5, 0x19#5, 0x1D#5])

/-- R183: for every defined kind, ENC completes with `enc_ok = 1` and a packet of exactly 4 bytes: each of the addresses 0 to
3 reads its byte of the packet, and no other address is listed. -/
def Obligations.EncodeIsTotalOnDefinedKinds : Prop :=
  ∀ s : State, s.invoked = some .enc →
    s.encIn.kind ∈ [0x08#5, 0x09#5, 0x0A#5, 0x0B#5, 0x0C#5, 0x0D#5, 0x0E#5, 0x11#5, 0x12#5, 0x13#5, 0x16#5, 0x18#5, 0x1A#5,
      0x1B#5, 0x1C#5, 0x1E#5, 0x1F#5] →
    ∃ t i, step s = .next t ∧ t.encOut.ok = true ∧ decodeEncIn s.encIn = some i ∧
      (∀ a : Fin 4, t.encOut.pkt.read a = (encode i).byte a) ∧ (∀ x ∈ t.encOut.pkt, x.1 < 4)

/-- R185: descriptor fields that the kind does not use are not read, and the unused bytes of the packet are 0x00 whatever
they hold. -/
def Obligations.UnusedDescriptorFieldsAreNotRead : Prop :=
  ∀ (s : State) (k : Kind) (e e' : EncIn), e.kind = k.code → e'.kind = k.code → e.cable = e'.cable →
    (k.isChannelVoice = true → e.chan = e'.chan) → (1 ≤ k.ndata → e.d1 = e'.d1) → (k.ndata = 2 → e.d2 = e'.d2) →
    ∃ t t', invoke s (.enc e) = .next t ∧ invoke s (.enc e') = .next t' ∧ t.encOut = t'.encOut ∧
      (k.ndata = 0 → t.encOut.pkt.read 2 = 0x00#8) ∧ (k.ndata ≤ 1 → t.encOut.pkt.read 3 = 0x00#8)

/-! ### The decode port -/

/-- R202: a CIN with no category is rejected with reason CIN, whatever the other bytes hold. -/
def Obligations.CinWithNoCategoryIsRejected : Prop :=
  ∀ s : State, s.invoked = some .dec → s.params.decodeStub = false →
    CinHasNoCategory ((s.decIn.read 0).extractLsb' 0 4) →
    ∃ t, step s = .next t ∧ t.decOut.ok = false ∧ t.decOut.reason = 2#3 ∧ OnlyPortMoved .dec s t

/-- R203: a status byte that the CIN does not admit is rejected with reason STATUS, and no other is. -/
def Obligations.InconsistentStatusIsRejected : Prop :=
  ∀ s : State, s.invoked = some .dec → s.params.decodeStub = false →
    ¬CinHasNoCategory ((s.decIn.read 0).extractLsb' 0 4) →
    ∃ t, step s = .next t ∧ OnlyPortMoved .dec s t ∧
      (¬CinAdmits ((s.decIn.read 0).extractLsb' 0 4) (s.decIn.read 1) → t.decOut.ok = false) ∧
      (t.decOut.reason = 3#3 ↔ ¬CinAdmits ((s.decIn.read 0).extractLsb' 0 4) (s.decIn.read 1))

/-- R208: the stub rejects every packet with reason STUB. -/
def Obligations.StubRejectsEveryPacket : Prop :=
  ∀ s : State, s.invoked = some .dec → s.params.decodeStub = true →
    ∃ t, step s = .next t ∧ t.decOut.ok = false ∧ t.decOut.reason = 1#3 ∧ OnlyPortMoved .dec s t

/-- R206 (and R201, R204): the outputs of a successful decode, from the bytes of the packet. -/
def Obligations.SuccessfulDecodeOutputs : Prop :=
  ∀ (s : State) (i : Instr), s.invoked = some .dec → decodePacket s.params s.decIn.packet = .ok i →
    ∃ t, step s = .next t ∧ t.decOut.ok = true ∧ t.decOut.reason = 0#3 ∧
      t.decOut.cable = (s.decIn.read 0).extractLsb' 4 4 ∧ t.decOut.kind = i.kind.code ∧
      (i.kind.isChannelVoice = true → t.decOut.chan = (s.decIn.read 1).extractLsb' 0 4) ∧
      (1 ≤ i.kind.ndata → t.decOut.d1 = (s.decIn.read 2).extractLsb' 0 7) ∧
      (i.kind.ndata = 2 → t.decOut.d2 = (s.decIn.read 3).extractLsb' 0 7) ∧
      i.event = ⟨(s.decIn.read 0).extractLsb' 4 4, messageOf i.kind t.decOut.chan t.decOut.d1 t.decOut.d2⟩ ∧
      OnlyPortMoved .dec s t

/-- R207: unused data bytes never matter under Ignore; under Reject a non-zero one is a rejection PAD, after the DATA check. -/
def Obligations.UnusedBytesFollowPadCheck : Prop :=
  (∀ (c : Params) (p q : Packet), c.padCheck = .ignore → p.b0 = q.b0 → p.b1 = q.b1 →
    (1 ≤ cinDataBytes (p.b0.extractLsb' 0 4) → p.b2 = q.b2) → (cinDataBytes (p.b0.extractLsb' 0 4) = 2 → p.b3 = q.b3) →
    decodePacket c p = decodePacket c q) ∧
  (∀ (c : Params) (p : Packet), c.decodeStub = false → c.padCheck = .reject →
    CinAdmits (p.b0.extractLsb' 0 4) p.b1 → ¬UnusedBytesZero p →
    decodePacket c p = .error (if 0x80 ≤ p.b2.toNat ∧ 1 ≤ cinDataBytes (p.b0.extractLsb' 0 4) then .data else .pad))

/-- R205: a used data byte of 0x80 or more is rejected with reason DATA, and a packet of an admitted status byte without one
is not. -/
def Obligations.DataOutOfRangeIsRejected : Prop :=
  ∀ s : State, s.invoked = some .dec → s.params.decodeStub = false →
    CinAdmits ((s.decIn.read 0).extractLsb' 0 4) (s.decIn.read 1) →
    ∃ t, step s = .next t ∧ OnlyPortMoved .dec s t ∧ (t.decOut.reason = 4#3 ↔ HasDataOutOfRange s.decIn.packet) ∧
      (HasDataOutOfRange s.decIn.packet → t.decOut.ok = false)

/-- R242, R247: `dec_ok` and the code of the first cause in the order STUB, CIN, STATUS, DATA, PAD, for every packet and every
parameter setting; encode and Make have one cause each; invocations of different ports are independent. -/
def Obligations.FirstRejectionCauseIsReported : Prop :=
  (∀ s : State, s.invoked = some .dec →
    ∃ t, step s = .next t ∧ FirstCause s.params s.decIn.packet t.decOut.reason ∧
      (t.decOut.ok = true ↔ t.decOut.reason = 0#3)) ∧
  (∀ s : State, s.invoked = some .enc →
    ∃ t, step s = .next t ∧ (t.encOut.ok = false ↔ Kind.ofCode s.encIn.kind = none)) ∧
  (∀ s : State, s.invoked = some .nmake → ∃ t, step s = .next t ∧ (t.nmOut.ok = false ↔ 15 < s.nmIn.toNat)) ∧
  (∀ (s : State) (inv inv' : Invocation), ∃ t, invoke s inv = .next t ∧ transcript t [inv'] = transcript s [inv'])

/-- R210: every packet gives exactly one of a message or a rejection, and a decode affects no later invocation. -/
def Obligations.DecodeAlwaysAnswers : Prop :=
  ∀ (s : State) (p : Packet),
    ∃ t, invoke s (.dec p) = .next t ∧
      ((t.decOut.ok = true ∧ ∃ e, t.result = some (.event e)) ∨
        (t.decOut.ok = false ∧ ∃ r, t.result = some (.error (.invalidPacket r)))) ∧
      ∀ rest, transcript t rest = transcript s rest

/-! ### The nibble ports -/

/-- R100: NSPLIT gives the high and the low nibble of the byte, always. -/
def Obligations.NsplitOutputs : Prop :=
  ∀ s : State, s.invoked = some .nsplit →
    step s = .next { s with
      nsOut := { high := (s.nsIn >>> 4).setWidth 4, low := (s.nsIn &&& 0x0F#8).setWidth 4 }, draws := s.draws + 1 }

/-- R101: NCOMB gives high then low in one byte, always. -/
def Obligations.NcombOutputs : Prop :=
  ∀ s : State, s.invoked = some .ncomb →
    step s = .next { s with
      ncOut := (s.ncIn.high.setWidth 8 <<< 4) ||| s.ncIn.low.setWidth 8, draws := s.draws + 1 }

/-- R102, R241: NMAKE succeeds exactly up to 15, with the value itself, and raises OutOfRange above. -/
def Obligations.NmakeOutputs : Prop :=
  (∀ s : State, s.invoked = some .nmake → s.nmIn.toNat ≤ 15 →
    step s = .next { s with nmOut := { ok := true, nib := s.nmIn.extractLsb' 0 4 }, draws := s.draws + 1 }) ∧
  (∀ s : State, s.invoked = some .nmake → 15 < s.nmIn.toNat →
    ∃ t, step s = .next t ∧ t.nmOut.ok = false ∧ OnlyPortMoved .nmake s t ∧
      t.result = some (.error (.outOfRange s.nmIn)))

/-- R106: split and combine are inverse, through the ports. -/
def Obligations.SplitAndCombineAreInverse : Prop :=
  (∀ (s : State) (n1 n2 : Nibble),
    ∃ t u, invoke s (.ncomb n1 n2) = .next t ∧ invoke t (.nsplit t.ncOut) = .next u ∧
      u.result = some (.nibbles n1 n2)) ∧
  (∀ (s : State) (b : Byte),
    ∃ t u, invoke s (.nsplit b) = .next t ∧ invoke t (.ncomb t.nsOut.high t.nsOut.low) = .next u ∧
      u.result = some (.byte b))

/-! ### The whole machine -/

/-- R244, R32, R35: a step, an error's included, moves the outputs of the port in use and nothing else. That a step without
an invocation moves nothing is the model's choice (log 1). -/
def Obligations.StepMovesOnlyItsPort : Prop :=
  (∀ (s t : State) (p : Port), s.invoked = some p → step s = .next t → OnlyPortMoved p s t) ∧
  (∀ s : State, s.invoked = none → step s = .next s)

/-- No step stops: neither a fault nor a refusal, from any state (R210, R240, R246). -/
def Obligations.EveryStepCompletes : Prop := ∀ s : State, Completes s

/-- R51, R184, R283: what an invocation returns depends on its own inputs and the parameters only, not on the state it finds:
the first after reset behaves like every other. -/
def Obligations.ResultsDependOnInputsAndParametersOnly : Prop :=
  ∀ (s s' : State) (inv : Invocation), s.params = s'.params →
    ∃ t t', invoke s inv = .next t ∧ invoke s' inv = .next t' ∧ t.result = t'.result ∧ t.result ≠ none

/-- R48: invoking a port again with its inputs held gives the same result. -/
def Obligations.InvocationsAreIdempotent : Prop :=
  ∀ s : State, s.invoked ≠ none →
    ∃ t u, step s = .next t ∧ step t = .next u ∧ t.result = u.result ∧ t.result ≠ none

/-- R20, R50: any list of invocations, run in order from any state, gives each the result that its port's pure function of
its own inputs and the parameters gives. -/
def Obligations.TranscriptIsThePurePortFunctions : Prop :=
  ∀ (s : State) (invs : List Invocation), transcript s invs = invs.map fun inv => some (portFunction s.params inv)

/-- R31: the outputs of every port stay the functions of its inputs, through every step and every invocation. -/
def Obligations.PortsAgreeIsKept : Prop :=
  (∀ s t : State, PortsAgree s → step s = .next t → PortsAgree t) ∧
  (∀ (s t : State) (inv : Invocation), PortsAgree s → invoke s inv = .next t → PortsAgree t)

/-- R36, R280: after reset the outputs of every port are the functions of its inputs. (The inputs themselves are the model's
choice, log 4.) -/
def Obligations.PortsAgreeAtReset : Prop := PortsAgree State.reset

/-- R242, R183: the indicators stay legal through every step. That they stay legal when the transport presents inputs,
before the step, is the model's choice: the outputs keep the values of the last invocation there (log 14). -/
def Obligations.IndicatorsLegalIsKept : Prop :=
  (∀ s t : State, IndicatorsLegal s → step s = .next t → IndicatorsLegal t) ∧
  (∀ (s : State) (inv : Invocation), IndicatorsLegal s → IndicatorsLegal (s.present inv))

/-- The indicators are legal after reset. Their values there follow from the inputs the model chose (logs 4 and 5). -/
def Obligations.IndicatorsLegalAtReset : Prop := IndicatorsLegal State.reset

/-- R8, R9: the parameters' defaults. That `State.reset` is the instance which holds them is read from R8, R9 and R281 (log 6):
any other instance has its own reset state (`ParametersAndCinTableHoldAcrossReset`). -/
def Obligations.ParametersHaveTheirDefaultsAtReset : Prop :=
  State.reset.params.decodeStub = false ∧ State.reset.params.padCheck = .ignore

/-- Both packets keep the canonical form of packet storage through every step (addresses 0 to 3 only, R40; log 3). -/
def Obligations.PacketsStayCanonical : Prop :=
  ∀ s t : State, PacketsCanonical s → step s = .next t → PacketsCanonical t

/-! ### The listing syntax -/

/-- R72, U14: a line assembles exactly when its field count and its widths are right. The list gives each kind's fields in
order, a channel as 16 and a data field as 128 (the first number too large for it). A wrong count is a field-count error,
and a right count with a cable of 16 or more or a field too large is a field-width error; the other ports take bytes below
256 and nibbles below 16. -/
def Obligations.LinesAssembleExactlyWhenWellFormed : Prop :=
  (∀ row ∈ [(Kind.noteOff, [16, 128, 128]), (.noteOn, [16, 128, 128]), (.polyKeyPressure, [16, 128, 128]),
      (.controlChange, [16, 128, 128]), (.programChange, [16, 128]), (.channelPressure, [16, 128]),
      (.pitchBend, [16, 128, 128]), (.mtcQuarterFrame, [128]), (.songPosition, [128, 128]), (.songSelect, [128]),
      (.tuneRequest, []), (.timingClock, []), (.start, []), (.continue_, []), (.stop, []), (.activeSensing, []),
      (.systemReset, [])],
    ∀ (cable : Nat) (fields : List Nat),
      (fields.length ≠ row.2.length → assembleLine (.enc cable row.1 fields) = .error .fieldCount) ∧
      (fields.length = row.2.length → ¬(cable < 16 ∧ ∀ x ∈ fields.zip row.2, x.1 < x.2) →
        assembleLine (.enc cable row.1 fields) = .error .fieldWidth) ∧
      (fields.length = row.2.length → cable < 16 → (∀ x ∈ fields.zip row.2, x.1 < x.2) →
        ∃ e, assembleLine (.enc cable row.1 fields) = .ok (.enc e))) ∧
  (∀ b0 b1 b2 b3 : Nat,
    (b0 < 256 ∧ b1 < 256 ∧ b2 < 256 ∧ b3 < 256 → assembleLine (.dec b0 b1 b2 b3) =
      .ok (.dec ⟨BitVec.ofNat 8 b0, BitVec.ofNat 8 b1, BitVec.ofNat 8 b2, BitVec.ofNat 8 b3⟩)) ∧
    (¬(b0 < 256 ∧ b1 < 256 ∧ b2 < 256 ∧ b3 < 256) → assembleLine (.dec b0 b1 b2 b3) = .error .fieldWidth)) ∧
  (∀ b : Nat, (b < 256 → assembleLine (.nsplit b) = .ok (.nsplit (BitVec.ofNat 8 b))) ∧
    (256 ≤ b → assembleLine (.nsplit b) = .error .fieldWidth)) ∧
  (∀ h l : Nat, (h < 16 ∧ l < 16 → assembleLine (.ncomb h l) = .ok (.ncomb (BitVec.ofNat 4 h) (BitVec.ofNat 4 l))) ∧
    (¬(h < 16 ∧ l < 16) → assembleLine (.ncomb h l) = .error .fieldWidth)) ∧
  (∀ v : Nat, (v < 256 → assembleLine (.nmake v) = .ok (.nmake (BitVec.ofNat 8 v))) ∧
    (256 ≤ v → assembleLine (.nmake v) = .error .fieldWidth)) ∧
  (∀ l : Line, (∃ inv, assembleLine l = .ok inv) ↔ l.wellFormed = true)

/-- R65, R66, R72: an ENC line whose fields are a message's fields in order assembles to inputs that spell the message for
its cable. -/
def Obligations.EncLinesSpellTheirMessage : Prop :=
  ∀ (cn : CableNumber) (k : Kind) (chan : Channel) (d1 d2 : U7),
    assembleLine (.enc cn.toNat k ((if k.isChannelVoice then [chan.toNat] else []) ++ [d1.toNat, d2.toNat].take k.ndata)) =
      .ok (.enc (encodeEncIn (.ofEvent cn (messageOf k chan d1 d2))))

/-! ### Reset of any instance -/

/-- R281: an instance holds its parameters and its CIN table before, during and after a reset: the reset state of an instance
has the parameters it was built with; the reset input, a step and a presentation leave them; after a reset every list of
invocations gives what it would have given without, and an encode sends the table's CIN. (That the reset input leaves no
invocation in progress is the model's choice, log 16.) -/
def Obligations.ParametersAndCinTableHoldAcrossReset : Prop :=
  (∀ c : Params, (State.resetFor c).params = c) ∧
  (∀ s : State, s.resetInput.params = s.params) ∧
  (∀ (s : State) (inv : Invocation), (s.present inv).params = s.params) ∧
  (∀ s t : State, step s = .next t → t.params = s.params) ∧
  (∀ (s : State) (invs : List Invocation), transcript s.resetInput invs = transcript s invs) ∧
  (∀ (s : State) (i : Instr), ∃ t, invoke s.resetInput (.enc (encodeEncIn i)) = .next t ∧ t.encOut.ok = true ∧
    (t.encOut.pkt.read 0).extractLsb' 0 4 = cinOf i.kind)

/-- R36, R280: whatever parameters an instance was built with, after reset its outputs are the functions of its inputs and the
parameters, and the reset input keeps them so. The input values at reset, and so `dec_reason` (1 under the stub, else 2), are
the model's choice (logs 4 and 5), and so is what the reset input does to `invoked` (log 16). -/
def Obligations.EveryInstanceAgreesAfterReset : Prop :=
  (∀ c : Params, PortsAgree (State.resetFor c) ∧ IndicatorsLegal (State.resetFor c) ∧
    (State.resetFor c).decOut.reason = if c.decodeStub then 1#3 else 2#3) ∧
  (∀ s : State, PortsAgree s → PortsAgree s.resetInput) ∧
  (∀ s : State, IndicatorsLegal s → IndicatorsLegal s.resetInput)
end

