-- ==== Sys2Proof/Laws/Nibble.lean ====
section
/-! SUPPORT. The bit-field helpers in terms of concatenation: each formula of the spec (`<<`, `|`, `& 0x0F`, `zext`) is the
bit pattern it stands for. -/

namespace Sys2Proof

theorem combine_eq_append (h l : Nibble) : combine h l = h ++ l := by
  revert h l
  decide

@[simp] theorem highNibble_append (h l : Nibble) : highNibble (h ++ l) = h := by
  revert h l
  decide

@[simp] theorem lowNibble_append (h l : Nibble) : lowNibble (h ++ l) = l := by
  revert h l
  decide

theorem append_nibbles (b : Byte) : highNibble b ++ lowNibble b = b := by
  revert b
  decide

theorem zext8_eq_append (a : U7) : zext8 a = 0#1 ++ a := by
  revert a
  decide

@[simp] theorem low7_append (a : U7) : low7 (0#1 ++ a) = a := by
  revert a
  decide

@[simp] theorem msb_append_zero (a : U7) : (0#1 ++ a).msb = false := by
  revert a
  decide

/-- A byte whose bit 7 is clear is its low seven bits, zero-extended (R63). -/
theorem append_low7 (b : Byte) (h : b.msb = false) : 0#1 ++ low7 b = b := by
  revert b
  decide

/-- R122 to R128 `status <- 0xH0 | zext_8(channel)`: the category in the high nibble, the channel in the low one (R141). -/
theorem status_eq_append (cat ch : Nibble) : (cat ++ 0#4) ||| zext8 ch = cat ++ ch := by
  revert cat ch
  decide

theorem makeNibble_of_le (v : Byte) (h : v.toNat ≤ 15) : makeNibble v = some (v.setWidth 4) := if_neg (by omega)

theorem makeNibble_of_gt (v : Byte) (h : 15 < v.toNat) : makeNibble v = none := if_pos h

end Sys2Proof
end

