-- ==== Sys2Proof/Laws/Encoding.lean ====
section
/-! SUPPORT. Kinds, kind codes, messages and packets: the small lemmas of the encoding tables. -/

namespace Sys2Proof

/-! ### Kind codes -/

@[simp] theorem Kind.ofCode_code (k : Kind) : Kind.ofCode k.code = some k := by cases k <;> rfl

theorem Kind.code_of_ofCode {c : KindCode} {k : Kind} (h : Kind.ofCode c = some k) : k.code = c := by
  revert c k
  decide

theorem ofCode_isSome (c : KindCode) : (Kind.ofCode c).isSome = definedKind c := by
  revert c
  decide

theorem definedKind_or_undefined (c : KindCode) : definedKind c = !undefinedKinds.contains c := by
  revert c
  decide

/-! ### Messages, events and instructions -/

@[simp] theorem messageOf_kind (k : Kind) (c : Channel) (d1 d2 : U7) : (messageOf k c d1 d2).kind = k := by cases k <;> rfl

@[simp] theorem Instr.event_ofEvent (cn : CableNumber) (m : Message) : (Instr.ofEvent cn m).event = ⟨cn, m⟩ := by
  cases m <;> rfl

@[simp] theorem Instr.ofEvent_event (i : Instr) : Instr.ofEvent i.event.cableNumber i.event.message = i := by
  cases i <;> rfl

@[simp] theorem Instr.cable_ofEvent (cn : CableNumber) (m : Message) : (Instr.ofEvent cn m).cable = cn := by
  simp [Instr.cable]

@[simp] theorem Instr.message_ofEvent (cn : CableNumber) (m : Message) : (Instr.ofEvent cn m).message = m := by
  simp [Instr.message]

@[simp] theorem Instr.kind_ofEvent (cn : CableNumber) (m : Message) : (Instr.ofEvent cn m).kind = m.kind := by
  simp [Instr.kind]

/-- Two instructions with one cable and one message are one. -/
theorem Instr.ext_event {i j : Instr} (h : i.event = j.event) : i = j := by
  rw [← Instr.ofEvent_event i, ← Instr.ofEvent_event j, h]

/-- R27: every instruction is well formed. -/
@[simp] theorem Instr.wellFormed_true (i : Instr) : i.wellFormed = true := by cases i <;> rfl

/-! ### Packets -/

@[simp] theorem Packet.pkt32_ofPkt32 (w : BitVec 32) : (Packet.ofPkt32 w).pkt32 = w := by
  have bit : ∀ {i j : Nat}, i < 8 → (decide (i < 8) && w.getLsbD j) = w.getLsbD j := by
    intro i j hi
    simp [hi]
  apply BitVec.eq_of_getLsbD_eq
  intro i hi
  simp only [Packet.pkt32, Packet.ofPkt32, BitVec.getLsbD_append, BitVec.getLsbD_extractLsb']
  (repeat' split) <;> rw [bit (by omega)] <;> exact congrArg _ (by omega)

@[simp] theorem Packet.ofPkt32_pkt32 (p : Packet) : Packet.ofPkt32 p.pkt32 = p := by
  have byteEq : ∀ (n : Nat) (b : Byte), (∀ i, i < 8 → p.pkt32.getLsbD (n + i) = b.getLsbD i) →
      p.pkt32.extractLsb' n 8 = b := by
    intro n b h
    apply BitVec.eq_of_getLsbD_eq
    intro i hi
    simp only [BitVec.getLsbD_extractLsb', hi, decide_true, Bool.true_and]
    exact h i hi
  obtain ⟨b0, b1, b2, b3⟩ := p
  simp only [Packet.ofPkt32, Packet.mk.injEq]
  refine ⟨byteEq _ _ ?_, byteEq _ _ ?_, byteEq _ _ ?_, byteEq _ _ ?_⟩ <;> intro i hi <;>
    simp only [Packet.pkt32, BitVec.getLsbD_append] <;> (repeat' split) <;> (try omega) <;> (congr 1; omega)

/-- A mask applied to a packet applies to each of its bytes (R69). -/
theorem Packet.pkt32_and (p q : Packet) :
    p.pkt32 &&& q.pkt32 = (Packet.mk (p.b0 &&& q.b0) (p.b1 &&& q.b1) (p.b2 &&& q.b2) (p.b3 &&& q.b3)).pkt32 := by
  apply BitVec.eq_of_getLsbD_eq
  intro i _
  simp only [Packet.pkt32, BitVec.getLsbD_and, BitVec.getLsbD_append]
  (repeat' split) <;> rfl

theorem Packet.pkt32_injective {p q : Packet} (h : p.pkt32 = q.pkt32) : p = q := by
  rw [← Packet.ofPkt32_pkt32 p, ← Packet.ofPkt32_pkt32 q, h]

/-- R69 byte by byte: a masked packet equals a pattern exactly when each masked byte equals the pattern's byte. -/
theorem Packet.masked_eq_iff (p : Packet) (mask pattern : BitVec 32) :
    p.pkt32 &&& mask = pattern ↔
      p.b0 &&& (Packet.ofPkt32 mask).b0 = (Packet.ofPkt32 pattern).b0 ∧
      p.b1 &&& (Packet.ofPkt32 mask).b1 = (Packet.ofPkt32 pattern).b1 ∧
      p.b2 &&& (Packet.ofPkt32 mask).b2 = (Packet.ofPkt32 pattern).b2 ∧
      p.b3 &&& (Packet.ofPkt32 mask).b3 = (Packet.ofPkt32 pattern).b3 := by
  constructor
  · intro h
    rw [← Packet.pkt32_ofPkt32 mask, Packet.pkt32_and, ← Packet.pkt32_ofPkt32 pattern] at h
    have := Packet.pkt32_injective h
    rw [Packet.mk.injEq] at this
    simpa using this
  · rintro ⟨h0, h1, h2, h3⟩
    rw [← Packet.pkt32_ofPkt32 mask, Packet.pkt32_and, h0, h1, h2, h3]
    exact Packet.pkt32_ofPkt32 pattern

end Sys2Proof
end

