-- ==== Sys2Proof/Laws/Decode.lean ====
section
/-! SUPPORT. What the packet decoder can answer, said once: the outcomes of a CIN and a status byte (R202, R203), and the
inversion of `decodePacket`. Later proofs cite these instead of unfolding the decoder. -/

namespace Sys2Proof

theorem whenStatus_eq_ok {b : Bool} {k k' : Kind} : whenStatus b k = .ok k' ↔ b = true ∧ k = k' := by
  cases b <;> simp [whenStatus]

theorem nibble_of_toNat {c : Nibble} {n : Nat} (h : c.toNat = n) : c = BitVec.ofNat 4 n := by
  rw [← h, BitVec.ofNat_toNat, BitVec.setWidth_eq]

theorem byte_of_toNat {b : Byte} {n : Nat} (h : b.toNat = n) : b = BitVec.ofNat 8 n := by
  rw [← h, BitVec.ofNat_toNat, BitVec.setWidth_eq]

theorem highNibble_eq_extract (b : Byte) : highNibble b = b.extractLsb' 4 4 := by
  revert b
  decide

theorem lowNibble_eq_extract (b : Byte) : lowNibble b = b.extractLsb' 0 4 := by
  revert b
  decide

theorem low7_eq_extract (b : Byte) : low7 b = b.extractLsb' 0 7 := by
  revert b
  decide

theorem msb_eq_decide (b : Byte) : b.msb = decide (0x80 ≤ b.toNat) := by
  revert b
  decide

/-- A category nibble is a kind's own: what a channel-voice kind's status byte is made of (R64, R162). -/
theorem append_lowNibble_of_high {cat : Nibble} {b : Byte} (h : highNibble b = cat) : cat ++ lowNibble b = b := by
  rw [← h, append_nibbles]

/-- R202, R203 when a packet is classified: its kind has the packet's CIN (R161), as many data bytes as the CIN says (R67),
and the packet's status byte. -/
theorem classify_ok {cin : CodeIndexNumber} {st : Byte} {k : Kind} (h : classify cin st = .ok k) :
    cinOf k = cin ∧ k.ndata = cinDataBytes cin ∧ CinAdmits cin st ∧ ¬CinHasNoCategory cin ∧
      ∀ cn d1 d2, (encode (.ofEvent cn (messageOf k (lowNibble st) d1 d2))).b1 = st := by
  unfold classify at h
  split at h
  case h_1 hc =>
    obtain rfl := nibble_of_toNat hc
    split at h
    · cases h
      subst st
      exact ⟨rfl, by decide, by decide, by decide, fun _ _ _ => rfl⟩
    · obtain ⟨he, rfl⟩ := whenStatus_eq_ok.mp h
      obtain rfl := beq_iff_eq.mp he
      exact ⟨rfl, by decide, by decide, by decide, fun _ _ _ => rfl⟩
  case h_11 hc =>
    obtain rfl := nibble_of_toNat hc
    split at h
    case h_7 => cases h
    all_goals
      rename_i hst
      obtain rfl := byte_of_toNat hst
      cases h
      exact ⟨rfl, by decide, by decide, by decide, fun _ _ _ => rfl⟩
  case h_12 => cases h
  all_goals
    rename_i hc
    obtain rfl := nibble_of_toNat hc
    obtain ⟨he, rfl⟩ := whenStatus_eq_ok.mp h
    first
      | (obtain rfl := beq_iff_eq.mp he
         exact ⟨rfl, by decide, by decide, by decide, fun _ _ _ => rfl⟩)
      | (have hh := beq_iff_eq.mp he
         exact ⟨rfl, by decide, .inl ⟨by decide, by decide, (highNibble_eq_extract st).symm.trans hh⟩, by decide,
           fun _ _ _ => append_lowNibble_of_high hh⟩)

theorem classify_of_no_category {cin : CodeIndexNumber} {st : Byte} (h : CinHasNoCategory cin) :
    classify cin st = .error .cin := by
  rcases h with rfl | rfl | rfl | rfl | rfl <;> rfl

theorem whenStatus_eq_error {b : Bool} {k : Kind} {r : Reason} : whenStatus b k = .error r ↔ b = false ∧ r = .status := by
  cases b <;> simp [whenStatus, eq_comm]

/-- R202, R203 when a packet is not classified: the CIN has no category, or it does not accept the status byte. -/
theorem classify_error {cin : CodeIndexNumber} {st : Byte} {r : Reason} (h : classify cin st = .error r) :
    (r = .cin ∧ CinHasNoCategory cin) ∨ (r = .status ∧ ¬CinHasNoCategory cin ∧ ¬CinAdmits cin st) := by
  unfold classify at h
  split at h
  case h_1 hc =>
    obtain rfl := nibble_of_toNat hc
    split at h
    · cases h
    · obtain ⟨he, rfl⟩ := whenStatus_eq_error.mp h
      simp_all
  case h_11 hc =>
    obtain rfl := nibble_of_toNat hc
    split at h
    case h_7 n1 n2 n3 n4 n5 n6 =>
      cases h
      refine .inr ⟨rfl, by decide, ?_⟩
      rintro (h | h | h | h | h)
      · exact absurd h.2.1 (by decide)
      · exact absurd h.1 (by decide)
      · exact absurd h.1 (by decide)
      · exact absurd h.1 (by decide)
      · rcases h.2 with rfl | rfl | rfl | rfl | rfl | rfl
        · exact n1 rfl
        · exact n2 rfl
        · exact n3 rfl
        · exact n4 rfl
        · exact n5 rfl
        · exact n6 rfl
    all_goals cases h
  case h_12 n2 n3 n5 n8 n9 nA nB nC nD nE nF =>
    cases h
    refine .inl ⟨rfl, ?_⟩
    have hlt : cin.toNat < 16 := cin.isLt
    simp only [imp_false] at n2 n3 n5 n8 n9 nA nB nC nD nE nF
    have : cin.toNat = 0 ∨ cin.toNat = 1 ∨ cin.toNat = 4 ∨ cin.toNat = 6 ∨ cin.toNat = 7 := by omega
    rcases this with h | h | h | h | h <;> rw [nibble_of_toNat h] <;> decide
  all_goals
    rename_i hc
    obtain rfl := nibble_of_toNat hc
    obtain ⟨he, rfl⟩ := whenStatus_eq_error.mp h
    rw [beq_eq_false_iff_ne] at he
    try rw [highNibble_eq_extract] at he
    refine .inr ⟨rfl, by decide, ?_⟩
    simp [he]

/-- R200: what an accepted packet says. -/
theorem decodePacket_ok {c : Params} {p : Packet} {i : Instr} (h : decodePacket c p = .ok i) :
    ∃ k, c.decodeStub = false ∧ classify (lowNibble p.b0) p.b1 = .ok k ∧ dataRejected k.ndata p.b2 p.b3 = false ∧
      (c.padCheck = .reject → padRejected k.ndata p.b2 p.b3 = false) ∧
      i = .ofEvent (highNibble p.b0) (messageOfPacket k p) := by
  unfold decodePacket split at h
  dsimp only at h
  split at h
  · cases h
  · rename_i hs
    split at h
    · cases h
    · rename_i k hk
      split at h
      · cases h
      · rename_i hd
        split at h
        · cases h
        · rename_i hp
          cases h
          refine ⟨k, by simpa using hs, hk, by simpa using hd, fun hr => ?_, rfl⟩
          simpa [hr] using hp

/-- R202: a CIN with no category, before anything but the stub. -/
theorem decodePacket_no_category {c : Params} {p : Packet} (hs : c.decodeStub = false)
    (h : CinHasNoCategory (lowNibble p.b0)) : decodePacket c p = .error .cin := by
  simp [decodePacket, split, hs, classify_of_no_category h]

/-- R208: the stub. -/
theorem decodePacket_stub {c : Params} {p : Packet} (hs : c.decodeStub = true) : decodePacket c p = .error .stub := by
  simp [decodePacket, hs]

/-- R200 behind the stub and the classification: the data check, then the check of unused bytes, then the message. -/
theorem decodePacket_classified {c : Params} {p : Packet} {k : Kind} (hs : c.decodeStub = false)
    (hk : classify (lowNibble p.b0) p.b1 = .ok k) :
    decodePacket c p =
      if dataRejected k.ndata p.b2 p.b3 then .error .data
      else if c.padCheck = .reject ∧ padRejected k.ndata p.b2 p.b3 then .error .pad
      else .ok (.ofEvent (highNibble p.b0) (messageOfPacket k p)) := by
  simp [decodePacket, split, hs, hk]

/-- R203: a status byte that the CIN does not accept. -/
theorem decodePacket_not_classified {c : Params} {p : Packet} {r : Reason} (hs : c.decodeStub = false)
    (hk : classify (lowNibble p.b0) p.b1 = .error r) : decodePacket c p = .error r := by
  simp [decodePacket, split, hs, hk]

/-- R205 in the packet's own terms: the CIN says which data bytes are used (R67). -/
theorem dataRejected_iff {p : Packet} {k : Kind} (hk : classify (lowNibble p.b0) p.b1 = .ok k) :
    dataRejected k.ndata p.b2 p.b3 = true ↔ HasDataOutOfRange p := by
  unfold HasDataOutOfRange
  rw [← lowNibble_eq_extract, ← (classify_ok hk).2.1]
  simp [dataRejected, msb_eq_decide]

/-- R207 in the packet's own terms. -/
theorem padRejected_iff {p : Packet} {k : Kind} (hk : classify (lowNibble p.b0) p.b1 = .ok k) :
    padRejected k.ndata p.b2 p.b3 = true ↔ ¬UnusedBytesZero p := by
  unfold UnusedBytesZero
  rw [← lowNibble_eq_extract, ← (classify_ok hk).2.1]
  simp only [padRejected, bne, Bool.or_eq_true, Bool.and_eq_true, beq_iff_eq, decide_eq_true_eq, Bool.not_eq_true',
    beq_eq_false_iff_ne, Classical.not_and_iff_not_or_not, Classical.not_imp, ne_eq]

/-- A CIN with no category admits no status byte. -/
theorem not_admits_of_no_category {cin : CodeIndexNumber} {st : Byte} (h : CinHasNoCategory cin) : ¬CinAdmits cin st := by
  unfold CinAdmits
  rcases h with rfl | rfl | rfl | rfl | rfl <;> simp

/-- A packet whose CIN admits its status byte is classified (R203). -/
theorem exists_classify_of_admits {cin : CodeIndexNumber} {st : Byte} (h : CinAdmits cin st) :
    ∃ k, classify cin st = .ok k := by
  cases hk : classify cin st with
  | ok k => exact ⟨k, rfl⟩
  | error r =>
    rcases classify_error hk with ⟨_, hc⟩ | ⟨_, _, hn⟩
    · exact absurd h (not_admits_of_no_category hc)
    · exact absurd h hn

end Sys2Proof
end

