-- ==== Sys2Proof/Laws/Memory.lean ====
section
/-! SUPPORT. Packet storage: read after write, and that every memory operation keeps the canonical form. -/

namespace Sys2Proof.Machine

theorem readCell_of_below {m : Memory} {lo a : Nat} (h : wfFrom lo m = true) (ha : a < lo) : readCell m a = unlistedByte := by
  induction m generalizing lo with
  | nil => rfl
  | cons c m ih =>
    simp only [wfFrom, Bool.and_eq_true, decide_eq_true_eq] at h
    simp only [readCell]
    rw [if_neg (by omega)]
    exact ih h.2 (by omega)

theorem readCell_writeCell {m : Memory} {lo a b : Nat} (v : Byte) (h : wfFrom lo m = true) :
    readCell (writeCell m a v) b = if b = a then v else readCell m b := by
  induction m generalizing lo with
  | nil =>
    by_cases hv : v = unlistedByte
    · simp [writeCell, readCell, hv]
    · simp [writeCell, readCell, hv, eq_comm]
  | cons c m ih =>
    obtain ⟨k, w⟩ := c
    simp only [wfFrom, Bool.and_eq_true, decide_eq_true_eq] at h
    rcases Nat.lt_trichotomy a k with hak | rfl | hka
    · have hm : readCell m a = unlistedByte := readCell_of_below h.2 (by omega)
      by_cases hv : v = unlistedByte
      · by_cases hb : b = a
        · subst hb
          simp [writeCell, readCell, hak, hv, hm, Nat.ne_of_gt hak]
        · simp [writeCell, hak, hv, hb]
      · simp [writeCell, readCell, hak, hv, eq_comm (a := a)]
    · have hm : readCell m a = unlistedByte := readCell_of_below h.2 (by omega)
      by_cases hv : v = unlistedByte
      · by_cases hb : b = a
        · subst hb
          simp [writeCell, hv, hm]
        · simp [writeCell, readCell, hv, hb, Ne.symm hb]
      · by_cases hb : b = a
        · subst hb
          simp [writeCell, readCell, hv]
        · simp [writeCell, readCell, hv, hb, Ne.symm hb]
    · by_cases hb : b = k
      · subst hb
        simp [writeCell, readCell, Nat.lt_asymm hka, Nat.ne_of_gt hka, Nat.ne_of_lt hka]
      · simp [writeCell, readCell, Nat.lt_asymm hka, Nat.ne_of_gt hka, ih h.2, Ne.symm hb]

theorem wfFrom_mono {m : Memory} {lo lo' : Nat} (h : wfFrom lo m = true) (hl : lo' ≤ lo) : wfFrom lo' m = true := by
  cases m with
  | nil => rfl
  | cons c m =>
    simp only [wfFrom, Bool.and_eq_true, decide_eq_true_eq] at h ⊢
    exact ⟨⟨⟨by omega, h.1.1.2⟩, h.1.2⟩, h.2⟩

theorem wfFrom_writeCell {m : Memory} {lo a : Nat} (v : Byte) (h : wfFrom lo m = true) (hlo : lo ≤ a) (ha : a < 4) :
    wfFrom lo (writeCell m a v) = true := by
  induction m generalizing lo with
  | nil => by_cases hv : v = unlistedByte <;> simp [writeCell, wfFrom, hv, hlo, ha]
  | cons c m ih =>
    obtain ⟨k, w⟩ := c
    simp only [wfFrom, Bool.and_eq_true, decide_eq_true_eq] at h
    simp only [writeCell]
    split
    · split
      · simp [wfFrom, h]
      · rename_i hak hv
        simp only [wfFrom, Bool.and_eq_true, decide_eq_true_eq, bne_iff_ne]
        exact ⟨⟨⟨hlo, ha⟩, hv⟩, ⟨⟨by omega, h.1.1.2⟩, by simpa using h.1.2⟩, h.2⟩
    · split
      · split
        · exact wfFrom_mono h.2 (by omega)
        · simp_all [wfFrom]
      · simp only [wfFrom, Bool.and_eq_true, decide_eq_true_eq]
        exact ⟨h.1, ih h.2 (by omega)⟩

/-- A write keeps the canonical form. -/
theorem Memory.wf_write {m : Memory} (i : Fin 4) (v : Byte) (h : m.wf = true) : (m.write i v).wf = true :=
  wfFrom_writeCell v h (Nat.zero_le _) i.isLt

/-- Reading the byte just written gives it; every other byte stays. -/
theorem Memory.read_write {m : Memory} (i j : Fin 4) (v : Byte) (h : m.wf = true) :
    (m.write i v).read j = if j = i then v else m.read j := by
  simp only [Memory.read, Memory.write, readCell_writeCell v h, Fin.ext_iff]

theorem Memory.wf_nil : Memory.wf [] = true := rfl

/-- A packet written whole is in the canonical form. -/
@[simp] theorem Memory.wf_ofPacket (p : Packet) : (Memory.ofPacket p).wf = true :=
  wf_write _ _ (wf_write _ _ (wf_write _ _ (wf_write _ _ wf_nil)))

/-- A packet written whole reads back. -/
theorem Memory.read_ofPacket (p : Packet) (i : Fin 4) : (Memory.ofPacket p).read i = p.byte i := by
  have h0 := wf_write 0 p.b0 wf_nil
  have h1 := wf_write 1 p.b1 h0
  have h2 := wf_write 2 p.b2 h1
  unfold Memory.ofPacket
  rw [read_write _ _ _ h2, read_write _ _ _ h1, read_write _ _ _ h0, read_write _ _ _ wf_nil]
  match i with
  | 0 => rfl
  | 1 => rfl
  | 2 => rfl
  | 3 => rfl

@[simp] theorem Memory.packet_ofPacket (p : Packet) : (Memory.ofPacket p).packet = p := by
  simp only [Memory.packet, read_ofPacket]
  rfl

theorem wfFrom_ext {m n : Memory} {lo : Nat} (hm : wfFrom lo m = true) (hn : wfFrom lo n = true)
    (h : ∀ a, a < 4 → readCell m a = readCell n a) : m = n := by
  induction m generalizing n lo with
  | nil =>
    cases n with
    | nil => rfl
    | cons c n =>
      simp only [wfFrom, Bool.and_eq_true, decide_eq_true_eq, bne_iff_ne, ne_eq] at hn
      have := h c.1 hn.1.1.2
      simp [readCell] at this
      exact absurd this.symm hn.1.2
  | cons c m ih =>
    simp only [wfFrom, Bool.and_eq_true, decide_eq_true_eq, bne_iff_ne, ne_eq] at hm
    cases n with
    | nil =>
      have := h c.1 hm.1.1.2
      simp [readCell] at this
      exact absurd this hm.1.2
    | cons d n =>
      obtain ⟨k, v⟩ := c
      obtain ⟨l, w⟩ := d
      simp only [wfFrom, Bool.and_eq_true, decide_eq_true_eq, bne_iff_ne, ne_eq] at hn
      have hk := h k hm.1.1.2
      have hl := h l hn.1.1.2
      rcases Nat.lt_trichotomy k l with hkl | rfl | hkl
      · rw [show readCell ((l, w) :: n) k = unlistedByte by
          simp only [readCell]; rw [if_neg (by omega)]; exact readCell_of_below hn.2 (by omega)] at hk
        simp [readCell] at hk
        exact absurd hk hm.1.2
      · simp [readCell] at hk
        subst hk
        rw [ih hm.2 hn.2 (fun a ha => ?_)]
        have := h a ha
        simp only [readCell] at this
        by_cases hka : k = a
        · subst hka
          rw [readCell_of_below hm.2 (by omega), readCell_of_below hn.2 (by omega)]
        · simpa [hka] using this
      · rw [show readCell ((k, v) :: m) l = unlistedByte by
          simp only [readCell]; rw [if_neg (by omega)]; exact readCell_of_below hm.2 (by omega)] at hl
        simp [readCell] at hl
        exact absurd hl.symm hn.1.2

/-- Equal packets in the canonical form are equal data. -/
theorem Memory.ext_of_wf {m n : Memory} (hm : m.wf = true) (hn : n.wf = true) (h : ∀ i, m.read i = n.read i) : m = n :=
  wfFrom_ext hm hn fun a ha => h ⟨a, ha⟩

end Sys2Proof.Machine
end

