-- ==== Sys2Proof/Laws/State.lean ====
section
/-! SUPPORT. One lemma per field per update, true by definition, so that no proof unfolds a record update. -/

namespace Sys2Proof.Machine

/-! ### driveEncode (R180) -/

@[simp] theorem driveEncode_params (p : Packet) (s : State) : (driveEncode p s).params = s.params := rfl
@[simp] theorem driveEncode_invoked (p : Packet) (s : State) : (driveEncode p s).invoked = s.invoked := rfl
@[simp] theorem driveEncode_encIn (p : Packet) (s : State) : (driveEncode p s).encIn = s.encIn := rfl
@[simp] theorem driveEncode_encOut (p : Packet) (s : State) : (driveEncode p s).encOut = { pkt := .ofPacket p, ok := true } := rfl
@[simp] theorem driveEncode_decIn (p : Packet) (s : State) : (driveEncode p s).decIn = s.decIn := rfl
@[simp] theorem driveEncode_decOut (p : Packet) (s : State) : (driveEncode p s).decOut = s.decOut := rfl
@[simp] theorem driveEncode_nsIn (p : Packet) (s : State) : (driveEncode p s).nsIn = s.nsIn := rfl
@[simp] theorem driveEncode_nsOut (p : Packet) (s : State) : (driveEncode p s).nsOut = s.nsOut := rfl
@[simp] theorem driveEncode_ncIn (p : Packet) (s : State) : (driveEncode p s).ncIn = s.ncIn := rfl
@[simp] theorem driveEncode_ncOut (p : Packet) (s : State) : (driveEncode p s).ncOut = s.ncOut := rfl
@[simp] theorem driveEncode_nmIn (p : Packet) (s : State) : (driveEncode p s).nmIn = s.nmIn := rfl
@[simp] theorem driveEncode_nmOut (p : Packet) (s : State) : (driveEncode p s).nmOut = s.nmOut := rfl
@[simp] theorem driveEncode_draws (p : Packet) (s : State) : (driveEncode p s).draws = s.draws + 1 := rfl

/-! ### driveDecode (R206) -/

@[simp] theorem driveDecode_params (e : UsbMidiEventPacket) (d : Payload) (s : State) : (driveDecode e d s).params = s.params := rfl
@[simp] theorem driveDecode_invoked (e : UsbMidiEventPacket) (d : Payload) (s : State) : (driveDecode e d s).invoked = s.invoked := rfl
@[simp] theorem driveDecode_encIn (e : UsbMidiEventPacket) (d : Payload) (s : State) : (driveDecode e d s).encIn = s.encIn := rfl
@[simp] theorem driveDecode_encOut (e : UsbMidiEventPacket) (d : Payload) (s : State) : (driveDecode e d s).encOut = s.encOut := rfl
@[simp] theorem driveDecode_decIn (e : UsbMidiEventPacket) (d : Payload) (s : State) : (driveDecode e d s).decIn = s.decIn := rfl
@[simp] theorem driveDecode_nsIn (e : UsbMidiEventPacket) (d : Payload) (s : State) : (driveDecode e d s).nsIn = s.nsIn := rfl
@[simp] theorem driveDecode_nsOut (e : UsbMidiEventPacket) (d : Payload) (s : State) : (driveDecode e d s).nsOut = s.nsOut := rfl
@[simp] theorem driveDecode_ncIn (e : UsbMidiEventPacket) (d : Payload) (s : State) : (driveDecode e d s).ncIn = s.ncIn := rfl
@[simp] theorem driveDecode_ncOut (e : UsbMidiEventPacket) (d : Payload) (s : State) : (driveDecode e d s).ncOut = s.ncOut := rfl
@[simp] theorem driveDecode_nmIn (e : UsbMidiEventPacket) (d : Payload) (s : State) : (driveDecode e d s).nmIn = s.nmIn := rfl
@[simp] theorem driveDecode_nmOut (e : UsbMidiEventPacket) (d : Payload) (s : State) : (driveDecode e d s).nmOut = s.nmOut := rfl
@[simp] theorem driveDecode_draws (e : UsbMidiEventPacket) (d : Payload) (s : State) : (driveDecode e d s).draws = s.draws + 1 := rfl
@[simp] theorem driveDecode_decOut_ok (e : UsbMidiEventPacket) (d : Payload) (s : State) :
    (driveDecode e d s).decOut.ok = true := rfl
@[simp] theorem driveDecode_decOut_reason (e : UsbMidiEventPacket) (d : Payload) (s : State) :
    (driveDecode e d s).decOut.reason = 0#3 := rfl
@[simp] theorem driveDecode_decOut_cable (e : UsbMidiEventPacket) (d : Payload) (s : State) :
    (driveDecode e d s).decOut.cable = e.cableNumber := rfl
@[simp] theorem driveDecode_decOut_kind (e : UsbMidiEventPacket) (d : Payload) (s : State) :
    (driveDecode e d s).decOut.kind = e.message.kind.code := rfl
@[simp] theorem driveDecode_decOut_chan (e : UsbMidiEventPacket) (d : Payload) (s : State) :
    (driveDecode e d s).decOut.chan = e.message.chan?.getD (Config.freeDecChan s.draws) := rfl
@[simp] theorem driveDecode_decOut_d1 (e : UsbMidiEventPacket) (d : Payload) (s : State) :
    (driveDecode e d s).decOut.d1 = d.d1?.getD (Config.freeDecD1 s.draws) := rfl
@[simp] theorem driveDecode_decOut_d2 (e : UsbMidiEventPacket) (d : Payload) (s : State) :
    (driveDecode e d s).decOut.d2 = d.d2?.getD (Config.freeDecD2 s.draws) := rfl

/-! ### raiseError (R240 to R244) -/

@[simp] theorem raiseError_params (e : BlockError) (s : State) : (raiseError e s).params = s.params := by cases e <;> rfl
@[simp] theorem raiseError_invoked (e : BlockError) (s : State) : (raiseError e s).invoked = s.invoked := by cases e <;> rfl
@[simp] theorem raiseError_encIn (e : BlockError) (s : State) : (raiseError e s).encIn = s.encIn := by cases e <;> rfl
@[simp] theorem raiseError_decIn (e : BlockError) (s : State) : (raiseError e s).decIn = s.decIn := by cases e <;> rfl
@[simp] theorem raiseError_nsIn (e : BlockError) (s : State) : (raiseError e s).nsIn = s.nsIn := by cases e <;> rfl
@[simp] theorem raiseError_nsOut (e : BlockError) (s : State) : (raiseError e s).nsOut = s.nsOut := by cases e <;> rfl
@[simp] theorem raiseError_ncIn (e : BlockError) (s : State) : (raiseError e s).ncIn = s.ncIn := by cases e <;> rfl
@[simp] theorem raiseError_ncOut (e : BlockError) (s : State) : (raiseError e s).ncOut = s.ncOut := by cases e <;> rfl
@[simp] theorem raiseError_nmIn (e : BlockError) (s : State) : (raiseError e s).nmIn = s.nmIn := by cases e <;> rfl
@[simp] theorem raiseError_draws (e : BlockError) (s : State) : (raiseError e s).draws = s.draws + 1 := by cases e <;> rfl
@[simp] theorem raiseError_outOfRange_encOut (v : Byte) (s : State) : (raiseError (.outOfRange v) s).encOut = s.encOut := rfl
@[simp] theorem raiseError_outOfRange_decOut (v : Byte) (s : State) : (raiseError (.outOfRange v) s).decOut = s.decOut := rfl
@[simp] theorem raiseError_outOfRange_nmOut_ok (v : Byte) (s : State) : (raiseError (.outOfRange v) s).nmOut.ok = false := rfl
@[simp] theorem raiseError_invalidKind_decOut (k : KindCode) (s : State) : (raiseError (.invalidKind k) s).decOut = s.decOut := rfl
@[simp] theorem raiseError_invalidKind_nmOut (k : KindCode) (s : State) : (raiseError (.invalidKind k) s).nmOut = s.nmOut := rfl
@[simp] theorem raiseError_invalidKind_encOut_ok (k : KindCode) (s : State) : (raiseError (.invalidKind k) s).encOut.ok = false := rfl
@[simp] theorem raiseError_invalidPacket_encOut (r : Reason) (s : State) : (raiseError (.invalidPacket r) s).encOut = s.encOut := rfl
@[simp] theorem raiseError_invalidPacket_nmOut (r : Reason) (s : State) : (raiseError (.invalidPacket r) s).nmOut = s.nmOut := rfl
@[simp] theorem raiseError_invalidPacket_decOut_ok (r : Reason) (s : State) : (raiseError (.invalidPacket r) s).decOut.ok = false := rfl
@[simp] theorem raiseError_invalidPacket_reason (r : Reason) (s : State) :
    (raiseError (.invalidPacket r) s).decOut.reason = r.code := rfl
@[simp] theorem raiseError_invalidKind_pkt (k : KindCode) (s : State) :
    (raiseError (.invalidKind k) s).encOut.pkt = .ofPacket (freePacket s.draws) := rfl

/-! ### carry: one case per port (R180, R206; log 2) -/

theorem carry_enc (e : UsbMidiEventPacket) (r : Raw) (s : State) (h : s.invoked = some .enc) :
    carry e r s = driveEncode (assemblePacket e r) s := by simp [carry, h]

theorem carry_dec (e : UsbMidiEventPacket) (r : Raw) (s : State) (h : s.invoked = some .dec) :
    carry e r s = driveDecode e r.payload s := by simp [carry, h]

theorem carry_other (e : UsbMidiEventPacket) (r : Raw) (s : State) (he : s.invoked ≠ some .enc)
    (hd : s.invoked ≠ some .dec) : carry e r s = s := by
  unfold carry
  split <;> simp_all

/-! ### present (R252): only the port's own inputs and the choice of port change -/

@[simp] theorem present_params (s : State) (inv : Invocation) : (s.present inv).params = s.params := by cases inv <;> rfl
@[simp] theorem present_encOut (s : State) (inv : Invocation) : (s.present inv).encOut = s.encOut := by cases inv <;> rfl
@[simp] theorem present_decOut (s : State) (inv : Invocation) : (s.present inv).decOut = s.decOut := by cases inv <;> rfl
@[simp] theorem present_nsOut (s : State) (inv : Invocation) : (s.present inv).nsOut = s.nsOut := by cases inv <;> rfl
@[simp] theorem present_ncOut (s : State) (inv : Invocation) : (s.present inv).ncOut = s.ncOut := by cases inv <;> rfl
@[simp] theorem present_nmOut (s : State) (inv : Invocation) : (s.present inv).nmOut = s.nmOut := by cases inv <;> rfl
@[simp] theorem present_draws (s : State) (inv : Invocation) : (s.present inv).draws = s.draws := by cases inv <;> rfl
@[simp] theorem present_enc_invoked (s : State) (e : EncIn) : (s.present (.enc e)).invoked = some .enc := rfl
@[simp] theorem present_enc_encIn (s : State) (e : EncIn) : (s.present (.enc e)).encIn = e := rfl
@[simp] theorem present_enc_decIn (s : State) (e : EncIn) : (s.present (.enc e)).decIn = s.decIn := rfl
@[simp] theorem present_enc_nsIn (s : State) (e : EncIn) : (s.present (.enc e)).nsIn = s.nsIn := rfl
@[simp] theorem present_enc_ncIn (s : State) (e : EncIn) : (s.present (.enc e)).ncIn = s.ncIn := rfl
@[simp] theorem present_enc_nmIn (s : State) (e : EncIn) : (s.present (.enc e)).nmIn = s.nmIn := rfl
@[simp] theorem present_dec_invoked (s : State) (p : Packet) : (s.present (.dec p)).invoked = some .dec := rfl
@[simp] theorem present_dec_encIn (s : State) (p : Packet) : (s.present (.dec p)).encIn = s.encIn := rfl
@[simp] theorem present_dec_decIn (s : State) (p : Packet) : (s.present (.dec p)).decIn = .ofPacket p := rfl
@[simp] theorem present_dec_nsIn (s : State) (p : Packet) : (s.present (.dec p)).nsIn = s.nsIn := rfl
@[simp] theorem present_dec_ncIn (s : State) (p : Packet) : (s.present (.dec p)).ncIn = s.ncIn := rfl
@[simp] theorem present_dec_nmIn (s : State) (p : Packet) : (s.present (.dec p)).nmIn = s.nmIn := rfl
@[simp] theorem present_nsplit_invoked (s : State) (b : Byte) : (s.present (.nsplit b)).invoked = some .nsplit := rfl
@[simp] theorem present_nsplit_encIn (s : State) (b : Byte) : (s.present (.nsplit b)).encIn = s.encIn := rfl
@[simp] theorem present_nsplit_decIn (s : State) (b : Byte) : (s.present (.nsplit b)).decIn = s.decIn := rfl
@[simp] theorem present_nsplit_nsIn (s : State) (b : Byte) : (s.present (.nsplit b)).nsIn = b := rfl
@[simp] theorem present_nsplit_ncIn (s : State) (b : Byte) : (s.present (.nsplit b)).ncIn = s.ncIn := rfl
@[simp] theorem present_nsplit_nmIn (s : State) (b : Byte) : (s.present (.nsplit b)).nmIn = s.nmIn := rfl
@[simp] theorem present_ncomb_invoked (s : State) (h l : Nibble) : (s.present (.ncomb h l)).invoked = some .ncomb := rfl
@[simp] theorem present_ncomb_encIn (s : State) (h l : Nibble) : (s.present (.ncomb h l)).encIn = s.encIn := rfl
@[simp] theorem present_ncomb_decIn (s : State) (h l : Nibble) : (s.present (.ncomb h l)).decIn = s.decIn := rfl
@[simp] theorem present_ncomb_nsIn (s : State) (h l : Nibble) : (s.present (.ncomb h l)).nsIn = s.nsIn := rfl
@[simp] theorem present_ncomb_ncIn (s : State) (h l : Nibble) : (s.present (.ncomb h l)).ncIn = { high := h, low := l } := rfl
@[simp] theorem present_ncomb_nmIn (s : State) (h l : Nibble) : (s.present (.ncomb h l)).nmIn = s.nmIn := rfl
@[simp] theorem present_nmake_invoked (s : State) (v : Byte) : (s.present (.nmake v)).invoked = some .nmake := rfl
@[simp] theorem present_nmake_encIn (s : State) (v : Byte) : (s.present (.nmake v)).encIn = s.encIn := rfl
@[simp] theorem present_nmake_decIn (s : State) (v : Byte) : (s.present (.nmake v)).decIn = s.decIn := rfl
@[simp] theorem present_nmake_nsIn (s : State) (v : Byte) : (s.present (.nmake v)).nsIn = s.nsIn := rfl
@[simp] theorem present_nmake_ncIn (s : State) (v : Byte) : (s.present (.nmake v)).ncIn = s.ncIn := rfl
@[simp] theorem present_nmake_nmIn (s : State) (v : Byte) : (s.present (.nmake v)).nmIn = v := rfl

/-! ### The reset states and the reset input -/

@[simp] theorem resetFor_params (c : Params) : (State.resetFor c).params = c := rfl
@[simp] theorem reset_params : State.reset.params = .default := rfl
@[simp] theorem resetFor_invoked (c : Params) : (State.resetFor c).invoked = none := rfl
@[simp] theorem resetInput_invoked (s : State) : s.resetInput.invoked = none := rfl
@[simp] theorem resetInput_params (s : State) : s.resetInput.params = s.params := rfl
@[simp] theorem resetInput_encIn (s : State) : s.resetInput.encIn = s.encIn := rfl
@[simp] theorem resetInput_encOut (s : State) : s.resetInput.encOut = s.encOut := rfl
@[simp] theorem resetInput_decIn (s : State) : s.resetInput.decIn = s.decIn := rfl
@[simp] theorem resetInput_decOut (s : State) : s.resetInput.decOut = s.decOut := rfl
@[simp] theorem resetInput_nsIn (s : State) : s.resetInput.nsIn = s.nsIn := rfl
@[simp] theorem resetInput_nsOut (s : State) : s.resetInput.nsOut = s.nsOut := rfl
@[simp] theorem resetInput_ncIn (s : State) : s.resetInput.ncIn = s.ncIn := rfl
@[simp] theorem resetInput_ncOut (s : State) : s.resetInput.ncOut = s.ncOut := rfl
@[simp] theorem resetInput_nmIn (s : State) : s.resetInput.nmIn = s.nmIn := rfl
@[simp] theorem resetInput_nmOut (s : State) : s.resetInput.nmOut = s.nmOut := rfl
@[simp] theorem resetInput_draws (s : State) : s.resetInput.draws = s.draws := rfl

end Sys2Proof.Machine
end

