-- ==== Sys2Proof/Laws/Exec.lean ====
section
/-! SUPPORT. What `exec` and `step` can do, said once: every meaning carries its message, and a step is one of seven cases.
Later proofs cite these lemmas instead of unfolding the step function. -/

namespace Sys2Proof.Machine

/-- Every arm carries the instruction's event with the raw pair of its message (R120). -/
theorem exec_eq_carry (i : Instr) (s : State) : exec i s = .next (carry i.event (raw i.message) s) := by cases i <;> rfl

theorem exec_enc (i : Instr) (s : State) (h : s.invoked = some .enc) :
    exec i s = .next (driveEncode (assemblePacket i.event (raw i.message)) s) := by
  rw [exec_eq_carry, carry_enc _ _ _ h]

theorem exec_dec (i : Instr) (s : State) (h : s.invoked = some .dec) :
    exec i s = .next (driveDecode i.event (raw i.message).payload s) := by
  rw [exec_eq_carry, carry_dec _ _ _ h]

/-- R102 up to 15. -/
theorem execNmake_of_le (s : State) (h : s.nmIn.toNat ≤ 15) :
    execNmake s = .next { s with nmOut := { ok := true, nib := s.nmIn.setWidth 4 }, draws := s.draws + 1 } := by
  simp [execNmake, makeNibble_of_le _ h]

/-- R102, R241 above 15. -/
theorem execNmake_of_gt (s : State) (h : 15 < s.nmIn.toNat) :
    execNmake s = .next (raiseError (.outOfRange s.nmIn) s) := by
  simp [execNmake, makeNibble_of_gt _ h]

/-- Everything a step can do. -/
theorem step_cases (s : State) :
    (s.invoked = none ∧ step s = .next s) ∨
    (∃ i, s.invoked = some .enc ∧ decodeEncIn s.encIn = some i ∧
      step s = .next (driveEncode (assemblePacket i.event (raw i.message)) s)) ∨
    (s.invoked = some .enc ∧ decodeEncIn s.encIn = none ∧ step s = .next (raiseError (.invalidKind s.encIn.kind) s)) ∨
    (∃ i, s.invoked = some .dec ∧ decodePacket s.params s.decIn.packet = .ok i ∧
      step s = .next (driveDecode i.event (raw i.message).payload s)) ∨
    (∃ r, s.invoked = some .dec ∧ decodePacket s.params s.decIn.packet = .error r ∧
      step s = .next (raiseError (.invalidPacket r) s)) ∨
    (s.invoked = some .nsplit ∧ step s = execNsplit s) ∨
    (s.invoked = some .ncomb ∧ step s = execNcomb s) ∨
    (s.invoked = some .nmake ∧ step s = execNmake s) := by
  cases hs : s.invoked with
  | none => simp [step, hs]
  | some p =>
    cases p with
    | enc =>
      cases hd : decodeEncIn s.encIn with
      | none => simp [step, hs, fetchEncode, hd, runFetched]
      | some i => simp [step, hs, fetchEncode, hd, runFetched, exec_enc i s hs]
    | dec =>
      cases hd : decodePacket s.params s.decIn.packet with
      | error r => simp [step, hs, fetchDecode, hd, runFetched]
      | ok i => simp [step, hs, fetchDecode, hd, runFetched, exec_dec i s hs]
    | nsplit => simp [step, hs]
    | ncomb => simp [step, hs]
    | nmake => simp [step, hs]

end Sys2Proof.Machine
end

