-- ==== Sys2Proof/Laws/PerInstr.lean ====
section
/-! SUPPORT. The family `Encoding` of LAWS.json, one lemma per constructor of `Instr`: the instruction is well formed (R27),
its kind code names its kind (R64), and its packet is of its own row of R69's table, the strict mask included. -/

namespace Sys2Proof.Laws.Encoding

/-- What the family says of an instruction. -/
def Statement (i : Instr) : Prop :=
  i.wellFormed = true ∧ Kind.ofCode (encodeEncIn i).kind = some i.kind ∧ (encode i).isOfKind .reject i.kind = true

/-- R69, strict mask, byte by byte: `m` is the row's strict mask and `q` its pattern. -/
theorem isOfKind_of_bytes {p : Packet} {k : Kind} (m q : Packet) (hm : k.row.strictMask = m.pkt32)
    (hq : k.row.pattern = q.pkt32) (h0 : p.b0 &&& m.b0 = q.b0) (h1 : p.b1 &&& m.b1 = q.b1) (h2 : p.b2 &&& m.b2 = q.b2)
    (h3 : p.b3 &&& m.b3 = q.b3) : p.isOfKind .reject k = true := by
  simp only [Packet.isOfKind, PatternRow.maskFor, hm, hq, Packet.pkt32_and, h0, h1, h2, h3, beq_self_eq_true]

/-- The header's share of R69: the cable is masked out, the CIN stays. -/
theorem masked_header (c cin : Nibble) : (c ++ cin) &&& 0x0F#8 = 0#4 ++ cin := by
  revert c cin
  decide

/-- A channel-voice status byte's share of R69: the category stays, the channel is masked out. -/
theorem masked_status (cat ch : Nibble) : (cat ++ ch) &&& 0xF0#8 = cat ++ 0#4 := by
  revert cat ch
  decide

/-- A used data byte's share of R69: bit 7 is 0 (R63). -/
theorem masked_data (a : U7) : (0#1 ++ a) &&& 0x80#8 = 0x00#8 := by
  revert a
  decide

/-- A fixed byte's share of R69: a status code, or an unused byte that is 0x00. -/
theorem masked_fixed (b : Byte) : b &&& 0xFF#8 = b := by
  revert b
  decide

theorem noteOff (c : CableNumber) (h : Channel) (a b : U7) : Statement (.noteOff c h a b) :=
  ⟨rfl, rfl, isOfKind_of_bytes ⟨0x0F#8, 0xF0#8, 0x80#8, 0x80#8⟩ ⟨0x08#8, 0x80#8, 0x00#8, 0x00#8⟩ rfl rfl
    (masked_header _ _) (masked_status _ _) (masked_data _) (masked_data _)⟩

theorem noteOn (c : CableNumber) (h : Channel) (a b : U7) : Statement (.noteOn c h a b) :=
  ⟨rfl, rfl, isOfKind_of_bytes ⟨0x0F#8, 0xF0#8, 0x80#8, 0x80#8⟩ ⟨0x09#8, 0x90#8, 0x00#8, 0x00#8⟩ rfl rfl
    (masked_header _ _) (masked_status _ _) (masked_data _) (masked_data _)⟩

theorem polyKeyPressure (c : CableNumber) (h : Channel) (a b : U7) : Statement (.polyKeyPressure c h a b) :=
  ⟨rfl, rfl, isOfKind_of_bytes ⟨0x0F#8, 0xF0#8, 0x80#8, 0x80#8⟩ ⟨0x0A#8, 0xA0#8, 0x00#8, 0x00#8⟩ rfl rfl
    (masked_header _ _) (masked_status _ _) (masked_data _) (masked_data _)⟩

theorem controlChange (c : CableNumber) (h : Channel) (a b : U7) : Statement (.controlChange c h a b) :=
  ⟨rfl, rfl, isOfKind_of_bytes ⟨0x0F#8, 0xF0#8, 0x80#8, 0x80#8⟩ ⟨0x0B#8, 0xB0#8, 0x00#8, 0x00#8⟩ rfl rfl
    (masked_header _ _) (masked_status _ _) (masked_data _) (masked_data _)⟩

theorem programChange (c : CableNumber) (h : Channel) (a : U7) : Statement (.programChange c h a) :=
  ⟨rfl, rfl, isOfKind_of_bytes ⟨0x0F#8, 0xF0#8, 0x80#8, 0xFF#8⟩ ⟨0x0C#8, 0xC0#8, 0x00#8, 0x00#8⟩ rfl rfl
    (masked_header _ _) (masked_status _ _) (masked_data _) (masked_fixed _)⟩

theorem channelPressure (c : CableNumber) (h : Channel) (a : U7) : Statement (.channelPressure c h a) :=
  ⟨rfl, rfl, isOfKind_of_bytes ⟨0x0F#8, 0xF0#8, 0x80#8, 0xFF#8⟩ ⟨0x0D#8, 0xD0#8, 0x00#8, 0x00#8⟩ rfl rfl
    (masked_header _ _) (masked_status _ _) (masked_data _) (masked_fixed _)⟩

theorem pitchBend (c : CableNumber) (h : Channel) (a b : U7) : Statement (.pitchBend c h a b) :=
  ⟨rfl, rfl, isOfKind_of_bytes ⟨0x0F#8, 0xF0#8, 0x80#8, 0x80#8⟩ ⟨0x0E#8, 0xE0#8, 0x00#8, 0x00#8⟩ rfl rfl
    (masked_header _ _) (masked_status _ _) (masked_data _) (masked_data _)⟩

theorem mtcQuarterFrame (c : CableNumber) (a : U7) : Statement (.mtcQuarterFrame c a) :=
  ⟨rfl, rfl, isOfKind_of_bytes ⟨0x0F#8, 0xFF#8, 0x80#8, 0xFF#8⟩ ⟨0x02#8, 0xF1#8, 0x00#8, 0x00#8⟩ rfl rfl
    (masked_header _ _) (masked_fixed _) (masked_data _) (masked_fixed _)⟩

theorem songPosition (c : CableNumber) (a b : U7) : Statement (.songPosition c a b) :=
  ⟨rfl, rfl, isOfKind_of_bytes ⟨0x0F#8, 0xFF#8, 0x80#8, 0x80#8⟩ ⟨0x03#8, 0xF2#8, 0x00#8, 0x00#8⟩ rfl rfl
    (masked_header _ _) (masked_fixed _) (masked_data _) (masked_data _)⟩

theorem songSelect (c : CableNumber) (a : U7) : Statement (.songSelect c a) :=
  ⟨rfl, rfl, isOfKind_of_bytes ⟨0x0F#8, 0xFF#8, 0x80#8, 0xFF#8⟩ ⟨0x02#8, 0xF3#8, 0x00#8, 0x00#8⟩ rfl rfl
    (masked_header _ _) (masked_fixed _) (masked_data _) (masked_fixed _)⟩

theorem tuneRequest (c : CableNumber) : Statement (.tuneRequest c) :=
  ⟨rfl, rfl, isOfKind_of_bytes ⟨0x0F#8, 0xFF#8, 0xFF#8, 0xFF#8⟩ ⟨0x05#8, 0xF6#8, 0x00#8, 0x00#8⟩ rfl rfl
    (masked_header _ _) (masked_fixed _) (masked_fixed _) (masked_fixed _)⟩

theorem timingClock (c : CableNumber) : Statement (.timingClock c) :=
  ⟨rfl, rfl, isOfKind_of_bytes ⟨0x0F#8, 0xFF#8, 0xFF#8, 0xFF#8⟩ ⟨0x0F#8, 0xF8#8, 0x00#8, 0x00#8⟩ rfl rfl
    (masked_header _ _) (masked_fixed _) (masked_fixed _) (masked_fixed _)⟩

theorem start (c : CableNumber) : Statement (.start c) :=
  ⟨rfl, rfl, isOfKind_of_bytes ⟨0x0F#8, 0xFF#8, 0xFF#8, 0xFF#8⟩ ⟨0x0F#8, 0xFA#8, 0x00#8, 0x00#8⟩ rfl rfl
    (masked_header _ _) (masked_fixed _) (masked_fixed _) (masked_fixed _)⟩

theorem continue_ (c : CableNumber) : Statement (.continue_ c) :=
  ⟨rfl, rfl, isOfKind_of_bytes ⟨0x0F#8, 0xFF#8, 0xFF#8, 0xFF#8⟩ ⟨0x0F#8, 0xFB#8, 0x00#8, 0x00#8⟩ rfl rfl
    (masked_header _ _) (masked_fixed _) (masked_fixed _) (masked_fixed _)⟩

theorem stop (c : CableNumber) : Statement (.stop c) :=
  ⟨rfl, rfl, isOfKind_of_bytes ⟨0x0F#8, 0xFF#8, 0xFF#8, 0xFF#8⟩ ⟨0x0F#8, 0xFC#8, 0x00#8, 0x00#8⟩ rfl rfl
    (masked_header _ _) (masked_fixed _) (masked_fixed _) (masked_fixed _)⟩

theorem activeSensing (c : CableNumber) : Statement (.activeSensing c) :=
  ⟨rfl, rfl, isOfKind_of_bytes ⟨0x0F#8, 0xFF#8, 0xFF#8, 0xFF#8⟩ ⟨0x0F#8, 0xFE#8, 0x00#8, 0x00#8⟩ rfl rfl
    (masked_header _ _) (masked_fixed _) (masked_fixed _) (masked_fixed _)⟩

theorem systemReset (c : CableNumber) : Statement (.systemReset c) :=
  ⟨rfl, rfl, isOfKind_of_bytes ⟨0x0F#8, 0xFF#8, 0xFF#8, 0xFF#8⟩ ⟨0x0F#8, 0xFF#8, 0x00#8, 0x00#8⟩ rfl rfl
    (masked_header _ _) (masked_fixed _) (masked_fixed _) (masked_fixed _)⟩

end Sys2Proof.Laws.Encoding
end

