-- ==== Sys2Proof/Tests/Slice0.lean ====
section
/-! SUPPORT. Tests of the model. Expected results come from spec/95_test_vectors.md (the section is named in each docstring)
or from the bit patterns of spec/30_encoding.md R69. The witnesses at the end meet the hypotheses of the statements. -/

namespace Sys2Proof.Tests

open Machine

/-! ### Helpers -/

/-- What one invocation from the reset state returns. -/
def resultFrom (s : State) (inv : Invocation) : Option Result :=
  match invoke s inv with
  | .next t => t.result
  | .fault _ => none
  | .refused _ => none

/-- The reset state of an instance with other parameters. -/
def resetWith (stub : Bool) (pad : PadCheck) : State := .resetFor ⟨stub, pad⟩

/-- The packet that ENC answers to a listing line, or nothing. -/
def encLine (cable : Nat) (k : Kind) (fields : List Nat) : Option Result :=
  match assembleLine (.enc cable k fields) with
  | .ok inv => resultFrom State.reset inv
  | .error _ => none

/-- The listing word of an ENC line. -/
def encwOf (cable : Nat) (k : Kind) (fields : List Nat) : Option (BitVec 27) :=
  match assembleLine (.enc cable k fields) with
  | .ok (.enc e) => some e.encw
  | _ => none

/-- What DEC answers under the default parameters. -/
def dec (p : Packet) : Option Result := resultFrom State.reset (.dec p)

/-- What DEC answers with `PAD_CHECK = Reject`. -/
def decStrict (p : Packet) : Option Result := resultFrom (resetWith false .reject) (.dec p)

/-- A decoded message. -/
def ok (cable : CableNumber) (m : Message) : Option Result := some (.event ⟨cable, m⟩)

/-- A rejection. -/
def err (r : Reason) : Option Result := some (.error (.invalidPacket r))

/-- What the message port answers to a table word placed by `withFetchWord` after reset. -/
def fetched (w : Nat) : Option Result :=
  match step (State.reset.withFetchWord 32 w) with
  | .next t => t.result
  | .fault _ => none
  | .refused _ => none

/-! ### Decoding: each word written out from the patterns of R69, the fields `c`, `h`, `a`, `b` in their places -/

/-- cccc 1000, 1000 hhhh, 0aaaaaaa, 0bbbbbbb -/
theorem test_decode_noteOff :
    decodeTableWord 32 0b0000_1000_1000_0000_0011_1100_0100_0000 = some (.noteOff 0 0 60 64) := by decide

theorem test_decode_noteOn :
    decodeTableWord 32 0b1111_1001_1001_0001_0011_1100_0110_0100 = some (.noteOn 15 1 60 100) := by decide

theorem test_decode_polyKeyPressure :
    decodeTableWord 32 0b0001_1010_1010_0011_0100_0000_0101_1010 = some (.polyKeyPressure 1 3 64 90) := by decide

theorem test_decode_controlChange :
    decodeTableWord 32 0b0000_1011_1011_1111_0111_1011_0000_0000 = some (.controlChange 0 15 123 0) := by decide

/-- cccc 1100, 1100 hhhh, 0aaaaaaa, pppppppp -/
theorem test_decode_programChange :
    decodeTableWord 32 0b0000_1100_1100_0010_0000_0101_0000_0000 = some (.programChange 0 2 5) := by decide

theorem test_decode_channelPressure :
    decodeTableWord 32 0b0010_1101_1101_1001_0011_0000_0000_0000 = some (.channelPressure 2 9 48) := by decide

theorem test_decode_pitchBend :
    decodeTableWord 32 0b0000_1110_1110_0000_0000_0000_0100_0000 = some (.pitchBend 0 0 0 64) := by decide

/-- cccc 0010, 1111 0001, 0aaaaaaa, pppppppp -/
theorem test_decode_mtcQuarterFrame :
    decodeTableWord 32 0b0000_0010_1111_0001_0010_0101_0000_0000 = some (.mtcQuarterFrame 0 0x25) := by decide

theorem test_decode_songPosition :
    decodeTableWord 32 0b0000_0011_1111_0010_0001_0000_0000_0010 = some (.songPosition 0 16 2) := by decide

theorem test_decode_songSelect :
    decodeTableWord 32 0b0000_0010_1111_0011_0000_0011_0000_0000 = some (.songSelect 0 3) := by decide

theorem test_decode_tuneRequest :
    decodeTableWord 32 0b0101_0101_1111_0110_0000_0000_0000_0000 = some (.tuneRequest 5) := by decide

/-- cccc 1111, 1111 1000, pppppppp, pppppppp (unused bytes are ignored by default, R207) -/
theorem test_decode_timingClock :
    decodeTableWord 32 0b0000_1111_1111_1000_0001_0010_0011_0100 = some (.timingClock 0) := by decide

theorem test_decode_start :
    decodeTableWord 32 0b1111_1111_1111_1010_0000_0000_0000_0000 = some (.start 15) := by decide

theorem test_decode_continue : decodeTableWord 32 0x0FFB0000 = some (.continue_ 0) := by decide

theorem test_decode_stop : decodeTableWord 32 0x0FFC0000 = some (.stop 0) := by decide

theorem test_decode_activeSensing : decodeTableWord 32 0x0FFE0000 = some (.activeSensing 0) := by decide

theorem test_decode_systemReset : decodeTableWord 32 0xFFFF0000 = some (.systemReset 15) := by decide

/-- 95_test_vectors.md §2.6: words that are no instruction. -/
theorem test_decode_refuses :
    [0x00903C64, 0x01900000, 0x04F07E7F, 0x06F70000, 0x070102F7, 0x09803C40, 0x02F21000, 0x0FF90000, 0x09918064, 0x0CC28500].map
      (decodeTableWord 32) = List.replicate 10 none := by decide

/-! ### Encode (95_test_vectors.md §2.3, §2.4) -/

theorem test_enc_noteOff : encLine 15 .noteOff [15, 127, 0] = some (.packet ⟨0xF8, 0x8F, 0x7F, 0x00⟩) := by decide

theorem test_enc_noteOn : encLine 3 .noteOn [15, 127, 127] = some (.packet ⟨0x39, 0x9F, 0x7F, 0x7F⟩) := by decide

theorem test_enc_polyKeyPressure :
    encLine 1 .polyKeyPressure [3, 64, 90] = some (.packet ⟨0x1A, 0xA3, 0x40, 0x5A⟩) := by decide

theorem test_enc_controlChange : encLine 0 .controlChange [15, 123, 0] = some (.packet ⟨0x0B, 0xBF, 0x7B, 0x00⟩) := by decide

theorem test_enc_programChange : encLine 0 .programChange [2, 5] = some (.packet ⟨0x0C, 0xC2, 0x05, 0x00⟩) := by decide

theorem test_enc_channelPressure :
    encLine 2 .channelPressure [9, 48] = some (.packet ⟨0x2D, 0xD9, 0x30, 0x00⟩) := by decide

theorem test_enc_pitchBend : encLine 0 .pitchBend [0, 0, 64] = some (.packet ⟨0x0E, 0xE0, 0x00, 0x40⟩) := by decide

theorem test_enc_mtcQuarterFrame : encLine 0 .mtcQuarterFrame [0x25] = some (.packet ⟨0x02, 0xF1, 0x25, 0x00⟩) := by decide

theorem test_enc_songPosition : encLine 0 .songPosition [0x10, 0x02] = some (.packet ⟨0x03, 0xF2, 0x10, 0x02⟩) := by decide

theorem test_enc_songSelect : encLine 0 .songSelect [3] = some (.packet ⟨0x02, 0xF3, 0x03, 0x00⟩) := by decide

/-- §2.4: the fields a kind does not use are ignored. -/
theorem test_enc_tuneRequest :
    resultFrom State.reset (.enc ⟨5, 0x16, 7, 33, 44⟩) = some (.packet ⟨0x55, 0xF6, 0x00, 0x00⟩) := by decide

theorem test_enc_timingClock : encLine 0 .timingClock [] = some (.packet ⟨0x0F, 0xF8, 0x00, 0x00⟩) := by decide

theorem test_enc_start : encLine 15 .start [] = some (.packet ⟨0xFF, 0xFA, 0x00, 0x00⟩) := by decide

theorem test_enc_continue : encLine 0 .continue_ [] = some (.packet ⟨0x0F, 0xFB, 0x00, 0x00⟩) := by decide

theorem test_enc_stop : encLine 0 .stop [] = some (.packet ⟨0x0F, 0xFC, 0x00, 0x00⟩) := by decide

theorem test_enc_activeSensing : encLine 0 .activeSensing [] = some (.packet ⟨0x0F, 0xFE, 0x00, 0x00⟩) := by decide

theorem test_enc_systemReset :
    resultFrom State.reset (.enc ⟨15, 0x1F, 15, 127, 127⟩) = some (.packet ⟨0xFF, 0xFF, 0x00, 0x00⟩) := by decide

/-- §2.4: undefined kind codes. -/
theorem test_enc_invalidKind :
    [0x00, 0x07, 0x0F, 0x10, 0x14, 0x15, 0x17, 0x19, 0x1D].map
      (fun k : KindCode => resultFrom State.reset (.enc ⟨3, k, 1, 2, 4⟩)) =
    [0x00, 0x07, 0x0F, 0x10, 0x14, 0x15, 0x17, 0x19, 0x1D].map
      (fun k : KindCode => some (Result.error (.invalidKind k))) := by decide

/-- §2.3, column ENCW. -/
theorem test_encw :
    [encwOf 0 .noteOff [0, 60, 64], encwOf 15 .noteOn [1, 60, 100], encwOf 0 .pitchBend [15, 127, 127],
      encwOf 0 .mtcQuarterFrame [0x25], encwOf 15 .start []] =
    [some 0x0201E40, some 0x7A45E64, some 0x03BFFFF, some 0x0441280, some 0x7E80000] := by decide

/-! ### Decode (95_test_vectors.md §2.5 to §2.7), run as the first step after reset -/

theorem test_dec_noteOff : fetched 0x08803C40 = ok 0 (.noteOff 0 60 64) := by decide

theorem test_dec_noteOn : fetched 0xF9913C64 = ok 15 (.noteOn 1 60 100) := by decide

theorem test_dec_polyKeyPressure : fetched 0x1AA3405A = ok 1 (.polyKeyPressure 3 64 90) := by decide

theorem test_dec_controlChange : fetched 0x0BB0077F = ok 0 (.controlChange 0 7 127) := by decide

theorem test_dec_programChange : fetched 0x0CC20580 = ok 0 (.programChange 2 5) := by decide

theorem test_dec_channelPressure : fetched 0x2DD93000 = ok 2 (.channelPressure 9 48) := by decide

theorem test_dec_pitchBend : fetched 0x0EE00040 = ok 0 (.pitchBend 0 0 64) := by decide

theorem test_dec_mtcQuarterFrame : fetched 0x02F12500 = ok 0 (.mtcQuarterFrame 0x25) := by decide

theorem test_dec_songPosition : fetched 0x03F21002 = ok 0 (.songPosition 16 2) := by decide

theorem test_dec_songSelect : fetched 0x02F30300 = ok 0 (.songSelect 3) := by decide

theorem test_dec_tuneRequest : fetched 0x05F60000 = ok 0 .tuneRequest := by decide

theorem test_dec_timingClock : fetched 0x0FF88080 = ok 0 .timingClock := by decide

/-- R203 and R69 for the real-time kinds that §2.5 leaves out. -/
theorem test_dec_realTime :
    [fetched 0x0FFA0000, fetched 0x0FFB0000, fetched 0x0FFC0000, fetched 0x0FFE0000] =
      [ok 0 .start, ok 0 .continue_, ok 0 .stop, ok 0 .activeSensing] := by decide

theorem test_dec_systemReset : fetched 0xFFFF0000 = ok 15 .systemReset := by decide

/-- §2.6: the reason CIN. -/
theorem test_dec_reason_cin :
    [dec ⟨0x00, 0x90, 0x3C, 0x64⟩, dec ⟨0x01, 0x90, 0x00, 0x00⟩, dec ⟨0x04, 0xF0, 0x7E, 0x7F⟩, dec ⟨0x06, 0xF7, 0x00, 0x00⟩,
      dec ⟨0x07, 0x01, 0x02, 0xF7⟩] = List.replicate 5 (err .cin) := by decide

/-- §2.6: the reason STATUS. -/
theorem test_dec_reason_status :
    [dec ⟨0x09, 0x80, 0x3C, 0x40⟩, dec ⟨0x09, 0x3C, 0x40, 0x00⟩, dec ⟨0x0C, 0xB2, 0x05, 0x00⟩, dec ⟨0x02, 0xF2, 0x10, 0x00⟩,
      dec ⟨0x03, 0xF1, 0x10, 0x02⟩, dec ⟨0x05, 0xF7, 0x00, 0x00⟩, dec ⟨0x0F, 0xF9, 0x00, 0x00⟩, dec ⟨0x0F, 0xFD, 0x00, 0x00⟩,
      dec ⟨0x0F, 0x90, 0x3C, 0x64⟩, dec ⟨0x0F, 0x3C, 0x00, 0x00⟩] = List.replicate 10 (err .status) := by decide

/-- §2.6: the reason DATA, under both values of `PAD_CHECK`. -/
theorem test_dec_reason_data :
    [dec ⟨0x09, 0x91, 0x80, 0x64⟩, dec ⟨0x09, 0x91, 0x3C, 0xFF⟩, decStrict ⟨0x09, 0x91, 0xBC, 0xE4⟩,
      decStrict ⟨0x0C, 0xC2, 0x85, 0x00⟩] = List.replicate 4 (err .data) := by decide

/-- §2.5, column `PAD_CHECK = Reject`. -/
theorem test_dec_reason_pad :
    [decStrict ⟨0x0C, 0xC2, 0x05, 0x63⟩, decStrict ⟨0x0C, 0xC2, 0x05, 0x80⟩, decStrict ⟨0x0F, 0xF8, 0x12, 0x34⟩,
      decStrict ⟨0x0F, 0xF8, 0x80, 0x80⟩] = List.replicate 4 (err .pad) := by decide

/-- §2.5: the same packet under both values of `PAD_CHECK`. -/
theorem test_dec_strict_accepts :
    decStrict ⟨0x0C, 0xC2, 0x05, 0x00⟩ = ok 0 (.programChange 2 5) ∧
      decStrict ⟨0x2D, 0xD9, 0x30, 0x00⟩ = ok 2 (.channelPressure 9 48) := by decide

/-- §2.7 and S12: the priority. -/
theorem test_dec_priority :
    dec ⟨0x04, 0x12, 0x80, 0x80⟩ = err .cin ∧ dec ⟨0x0A, 0x90, 0x80, 0x80⟩ = err .status ∧
      decStrict ⟨0x0C, 0xC2, 0x85, 0x63⟩ = err .data ∧
      resultFrom (resetWith true .ignore) (.dec ⟨0x09, 0x91, 0x3C, 0x64⟩) = err .stub := by decide

/-! ### Nibble ports (95_test_vectors.md §2.1) -/

theorem test_nsplit :
    resultFrom State.reset (.nsplit 0x9F) = some (.nibbles 0x9 0xF) ∧
      resultFrom State.reset (.nsplit 0x80) = some (.nibbles 0x8 0x0) := by decide

theorem test_ncomb :
    resultFrom State.reset (.ncomb 0xA 0x5) = some (.byte 0xA5) ∧
      resultFrom State.reset (.ncomb 0x0 0xF) = some (.byte 0x0F) := by decide

theorem test_nmake_succeeds :
    resultFrom State.reset (.nmake 0) = some (.nibble 0x0) ∧
      resultFrom State.reset (.nmake 15) = some (.nibble 0xF) := by decide

theorem test_nmake_out_of_range :
    [16, 255, 0x1F].map (fun v : Byte => resultFrom State.reset (.nmake v)) =
      [some (.error (.outOfRange 16)), some (.error (.outOfRange 255)), some (.error (.outOfRange 0x1F))] := by decide

/-! ### A host's list of invocations (95_test_vectors.md §3, P2 and P3) -/

theorem test_P2 :
    transcript State.reset
        [.dec ⟨0x29, 0x90, 0x3C, 0x64⟩, .dec ⟨0x24, 0xF0, 0x7E, 0x7F⟩, .dec ⟨0x2C, 0xC5, 0x0A, 0x00⟩,
         .dec ⟨0x2F, 0xF9, 0x00, 0x00⟩] =
      [ok 2 (.noteOn 0 60 100), err .cin, ok 2 (.programChange 5 10), err .status] := by decide

theorem test_P3 :
    transcript State.reset [.nmake 3, .nsplit 0x09, .ncomb 3 9] =
      [some (.nibble 3), some (.nibbles 0x0 0x9), some (.byte 0x39)] := by decide

/-! ### The packet outside the block -/

/-- R44: byte 0 in bits 7 to 0 of a little-endian word. -/
theorem test_transportWord : transportWord ⟨0x09, 0x91, 0x3C, 0x64⟩ = 0x643C9109#32 := by decide

/-! ### The listing syntax (95_test_vectors.md §2.1, §2.3, §2.6; R72) -/

theorem test_text_enc :
    assembleText "ENC 0, NOTE_ON 1, 60, 100".toList = .ok (.enc ⟨0, 0x09, 1, 60, 100⟩) := by rfl

theorem test_text_enc_no_fields :
    assembleText "ENC 15, START".toList = .ok (.enc ⟨15, 0x1A, 0, 0, 0⟩) := by rfl

theorem test_text_enc_hex_and_comment :
    assembleText "ENC 0, SONG_POSITION 0x10, 0x02 ; R130".toList = .ok (.enc ⟨0, 0x12, 0, 16, 2⟩) := by rfl

theorem test_text_dec :
    assembleText "DEC 0x09, 0x91, 0x3C, 0x64".toList = .ok (.dec ⟨0x09, 0x91, 0x3C, 0x64⟩) := by rfl

theorem test_text_nibble_ports :
    assembleText "NSPLIT 0xA5".toList = .ok (.nsplit 0xA5) ∧ assembleText "NCOMB 0xA, 0x5".toList = .ok (.ncomb 0xA 0x5) ∧
      assembleText "NMAKE 16".toList = .ok (.nmake 16) := ⟨rfl, rfl, rfl⟩

theorem test_text_errors :
    assembleText "ENC 0, NOTE_ON 1, 60".toList = .error .fieldCount ∧
      assembleText "ENC 0, NOTE_ON 1, 60, 128".toList = .error .fieldWidth ∧
      assembleText "ENC 0, SYSEX 1".toList = .error .malformed ∧ assembleText "NMAKE 256".toList = .error .fieldWidth :=
  ⟨rfl, rfl, rfl, rfl⟩

/-! ### WellFormed smoke: each check refuses an ill-formed term -/

theorem smoke_encIn_undefined_kind : (EncIn.mk 0 0x10 0 0 0).wellFormed = false := by decide

theorem smoke_encIn_accepts : (EncIn.mk 15 0x1F 15 127 127).wellFormed = true := by decide

theorem smoke_undefined_kinds : undefinedKinds.any definedKind = false := by decide

/-- Every instruction is well formed: there is no ill-formed term of `Instr` (R27). -/
theorem smoke_instr_accepts : (Instr.noteOn 15 15 127 127).wellFormed = true := by decide

theorem smoke_line_too_few_fields : (Line.enc 0 .noteOn [1, 60]).wellFormed = false := by decide

theorem smoke_line_too_many_fields : (Line.enc 0 .tuneRequest [0]).wellFormed = false := by decide

theorem smoke_line_cable : (Line.enc 16 .tuneRequest []).wellFormed = false := by decide

theorem smoke_line_channel : (Line.enc 0 .programChange [16, 5]).wellFormed = false := by decide

theorem smoke_line_data : (Line.enc 0 .programChange [2, 128]).wellFormed = false := by decide

theorem smoke_line_system_data : (Line.enc 0 .songPosition [0, 128]).wellFormed = false := by decide

theorem smoke_line_dec_byte : (Line.dec 0 0 0 256).wellFormed = false := by decide

theorem smoke_line_nsplit : (Line.nsplit 256).wellFormed = false := by decide

theorem smoke_line_ncomb_high : (Line.ncomb 16 0).wellFormed = false := by decide

theorem smoke_line_ncomb_low : (Line.ncomb 0 16).wellFormed = false := by decide

theorem smoke_line_nmake : (Line.nmake 256).wellFormed = false := by decide

theorem smoke_line_accepts : (Line.enc 15 .pitchBend [15, 127, 127]).wellFormed = true := by decide

/-! ### Witnesses: concrete states and operands that meet the hypotheses of the statements -/

/-- An encode port with these inputs, invoked. -/
def encState (e : EncIn) : State := State.reset.present (.enc e)

/-- A decode port with this packet, invoked, under these parameters. -/
def decState (stub : Bool) (pad : PadCheck) (p : Packet) : State := (resetWith stub pad).present (.dec p)

/-- `StepRunsTheDecodedInstruction`, decode port. -/
theorem witness_StepRunsTheDecodedInstruction_dec :
    (decState false .ignore ⟨0x09, 0x91, 0x3C, 0x64⟩).invoked = some .dec ∧
      decodePacket (decState false .ignore ⟨0x09, 0x91, 0x3C, 0x64⟩).params
        (decState false .ignore ⟨0x09, 0x91, 0x3C, 0x64⟩).decIn.packet = .ok (.noteOn 0 1 60 100) := ⟨rfl, rfl⟩

/-- `StepRunsTheDecodedInstruction`, encode port. -/
theorem witness_StepRunsTheDecodedInstruction_enc :
    (encState ⟨0, 0x09, 1, 60, 100⟩).invoked = some .enc ∧
      decodeEncIn (encState ⟨0, 0x09, 1, 60, 100⟩).encIn = some (.noteOn 0 1 60 100) := by decide

theorem witness_FetchWordIsRunNext :
    State.reset.params = .default ∧ decodeTableWord 32 0x09913C64 = some (.noteOn 0 1 60 100) := by decide

theorem witness_DecodeOfEncodeIsTheInstruction :
    Params.default.decodeStub = false ∧ (Instr.systemReset 15).wellFormed = true := by decide

theorem witness_RoundTripLaws_encode_first : State.reset.params.decodeStub = false := by decide

/-- The second law, on both sides of its equivalence. -/
theorem witness_RoundTripLaws_decode_first :
    (decodePacket .default ⟨0x0C, 0xC2, 0x05, 0x00⟩ = .ok (.programChange 0 2 5) ∧ UnusedBytesZero ⟨0x0C, 0xC2, 0x05, 0x00⟩) ∧
      (decodePacket .default ⟨0x0C, 0xC2, 0x05, 0x63⟩ = .ok (.programChange 0 2 5) ∧
        ¬UnusedBytesZero ⟨0x0C, 0xC2, 0x05, 0x63⟩) := ⟨⟨rfl, by decide⟩, ⟨rfl, by decide⟩⟩

theorem witness_RoundTripLaws_strict :
    decodePacket ⟨false, .reject⟩ ⟨0x0C, 0xC2, 0x05, 0x00⟩ = .ok (.programChange 0 2 5) := rfl

theorem witness_RoundTripLaws_stub : (resetWith true .ignore).params.decodeStub = true := by decide

theorem witness_ListingWordFields :
    (Instr.tuneRequest 5).kind.isChannelVoice = false ∧ (Instr.tuneRequest 5).kind.ndata = 0 ∧
      (Instr.songSelect 0 3).kind.ndata ≤ 1 := by decide

/-- The clauses on `chan`, `d1` and `d2`, each on a kind that has the field. -/
theorem witness_DescriptorRoundTrip :
    decodeEncIn ⟨0, 0x0C, 2, 5, 99⟩ = some (.programChange 0 2 5) ∧ (Instr.programChange 0 2 5).kind.isChannelVoice = true ∧
      1 ≤ (Instr.programChange 0 2 5).kind.ndata ∧ decodeEncIn ⟨15, 0x12, 9, 127, 127⟩ = some (.songPosition 15 127 127) ∧
      (Instr.songPosition 15 127 127).kind.ndata = 2 := by decide

theorem witness_PatternTableClassifiesPackets :
    Params.default.decodeStub = false ∧
      (Packet.mk 0xFF 0xFF 0x00 0x00).pkt32 &&& Kind.systemReset.row.mask = Kind.systemReset.row.pattern := by decide

/-- The hypothesis `s.invoked = some .enc` of `EncodePortSendsTheTablePacket`, the four `…Sends` statements (through
`SendsPacket`), `StatusByteHasBit7DataBytesDoNot`, `CinTableByKind`, `HeaderAndBytePlacement` and
`InvalidKindExactlyOnUndefinedCodes`, whose instruction is any. -/
theorem witness_encode_port_invoked : (encState ⟨0, 0x09, 1, 60, 100⟩).invoked = some .enc := by decide

/-- The hypothesis `s.invoked = some .dec` of the three `…Delivers` statements (through `DeliversMessage`). -/
theorem witness_decode_port_invoked : (decState false .ignore ⟨0x0F, 0xF8, 0, 0⟩).invoked = some .dec := by decide

/-- A block nobody invoked, and one whose nibble port is in use. -/
theorem witness_MessagesMoveOnlyMessagePorts :
    (State.reset.invoked ≠ some .enc ∧ State.reset.invoked ≠ some .dec) ∧
      ((State.reset.present (.nsplit 0)).invoked ≠ some .enc ∧ (State.reset.present (.nsplit 0)).invoked ≠ some .dec) := by
  decide

theorem witness_ChannelCarriedUnchanged : (Message.pitchBend 15 127 127).kind.isChannelVoice = true := by decide

theorem witness_ChannelVoiceCinIsTheStatusCategory :
    (Message.noteOff 15 0 0).kind.isChannelVoice = true ∧ Message.systemReset.kind.isChannelVoice = false := by decide

theorem witness_CinValuesNeverProduced_enc :
    (encState ⟨0, 0x16, 0, 0, 0⟩).invoked = some .enc ∧
      ∃ t, step (encState ⟨0, 0x16, 0, 0, 0⟩) = .next t ∧ t.encOut.ok = true := ⟨rfl, _, rfl, rfl⟩

theorem witness_CinValuesNeverProduced_dec : CinHasNoCategory ((0xF7#8).extractLsb' 0 4) := by decide

/-- The three payload shapes. -/
theorem witness_HeaderAndBytePlacement :
    (raw (Instr.stop 15).message).payload = .empty ∧ (raw (Instr.songSelect 0 127).message).payload = .singleByte 127 ∧
      (raw (Instr.pitchBend 0 0 0 127).message).payload = .doubleByte 0 127 := by decide

/-- The first and the last undefined code. -/
theorem witness_InvalidKindExactlyOnUndefinedCodes :
    ((encState ⟨0, 0x00, 0, 0, 0⟩).invoked = some .enc ∧ (encState ⟨0, 0x00, 0, 0, 0⟩).encIn.kind = 0x00) ∧
      ((encState ⟨0, 0x1D, 0, 0, 0⟩).invoked = some .enc ∧ (encState ⟨0, 0x1D, 0, 0, 0⟩).encIn.kind = 0x1D) := by decide

/-- The first and the last defined code. -/
theorem witness_EncodeIsTotalOnDefinedKinds :
    ((encState ⟨0, 0x08, 0, 0, 0⟩).invoked = some .enc ∧ (encState ⟨0, 0x08, 0, 0, 0⟩).encIn.kind ∈ definedKinds) ∧
      ((encState ⟨15, 0x1F, 0, 0, 0⟩).invoked = some .enc ∧ (encState ⟨15, 0x1F, 0, 0, 0⟩).encIn.kind ∈ definedKinds) ∧
      definedKinds = [0x08#5, 0x09#5, 0x0A#5, 0x0B#5, 0x0C#5, 0x0D#5, 0x0E#5, 0x11#5, 0x12#5, 0x13#5, 0x16#5, 0x18#5, 0x1A#5,
        0x1B#5, 0x1C#5, 0x1E#5, 0x1F#5] := by decide

/-- Two inputs that differ in every field the kind does not use, for 0, 1 and 2 data bytes. -/
theorem witness_UnusedDescriptorFieldsAreNotRead :
    (Kind.tuneRequest.isChannelVoice = false ∧ Kind.tuneRequest.ndata = 0 ∧
      (EncIn.mk 5 0x16 7 33 44).kind = Kind.tuneRequest.code ∧ (EncIn.mk 5 0x16 0 0 0).kind = Kind.tuneRequest.code) ∧
    (Kind.programChange.isChannelVoice = true ∧ Kind.programChange.ndata = 1 ∧
      (EncIn.mk 0 0x0C 2 5 99).kind = Kind.programChange.code ∧ (EncIn.mk 0 0x0C 2 5 0).kind = Kind.programChange.code) ∧
    (Kind.songPosition.isChannelVoice = false ∧ Kind.songPosition.ndata = 2 ∧
      (EncIn.mk 0 0x12 9 16 2).kind = Kind.songPosition.code ∧ (EncIn.mk 0 0x12 0 16 2).kind = Kind.songPosition.code) := by
  decide

/-- Every CIN with no category, with a good status byte behind it. -/
theorem witness_CinWithNoCategoryIsRejected :
    ∀ b ∈ [0x00#8, 0x11#8, 0x24#8, 0x36#8, 0xF7#8],
      (decState false .ignore ⟨b, 0x90, 0, 0⟩).invoked = some .dec ∧
        (decState false .ignore ⟨b, 0x90, 0, 0⟩).params.decodeStub = false ∧
        CinHasNoCategory (((decState false .ignore ⟨b, 0x90, 0, 0⟩).decIn.read 0).extractLsb' 0 4) := by decide

/-- A status byte the CIN does not admit, and one it does. -/
theorem witness_InconsistentStatusIsRejected :
    ∀ b ∈ [0xB2#8, 0xC2#8],
      (decState false .ignore ⟨0x0C, b, 5, 0⟩).invoked = some .dec ∧
        (decState false .ignore ⟨0x0C, b, 5, 0⟩).params.decodeStub = false ∧
        ¬CinHasNoCategory (((decState false .ignore ⟨0x0C, b, 5, 0⟩).decIn.read 0).extractLsb' 0 4) ∧
        (CinAdmits (((decState false .ignore ⟨0x0C, b, 5, 0⟩).decIn.read 0).extractLsb' 0 4)
          ((decState false .ignore ⟨0x0C, b, 5, 0⟩).decIn.read 1) ↔ b = 0xC2#8) := by decide

theorem witness_StubRejectsEveryPacket :
    (decState true .reject ⟨0x09, 0x91, 0x3C, 0x64⟩).invoked = some .dec ∧
      (decState true .reject ⟨0x09, 0x91, 0x3C, 0x64⟩).params.decodeStub = true := by decide

/-- A kind with a channel and two data bytes, and one with none of them. -/
theorem witness_SuccessfulDecodeOutputs :
    (decodePacket (decState false .ignore ⟨0x39, 0x9F, 0x7F, 0x7F⟩).params
        (decState false .ignore ⟨0x39, 0x9F, 0x7F, 0x7F⟩).decIn.packet = .ok (.noteOn 3 15 127 127)) ∧
      (decodePacket (decState false .ignore ⟨0x0F, 0xF8, 0x80, 0x80⟩).params
        (decState false .ignore ⟨0x0F, 0xF8, 0x80, 0x80⟩).decIn.packet = .ok (.timingClock 0)) := ⟨rfl, rfl⟩

/-- Two packets that differ in their unused byte alone. -/
theorem witness_UnusedBytesFollowPadCheck_ignore :
    Params.default.padCheck = .ignore ∧ (Packet.mk 0x0C 0xC2 0x05 0x63).b0 = (Packet.mk 0x0C 0xC2 0x05 0x80).b0 ∧
      (Packet.mk 0x0C 0xC2 0x05 0x63).b1 = (Packet.mk 0x0C 0xC2 0x05 0x80).b1 ∧
      (Packet.mk 0x0C 0xC2 0x05 0x63).b2 = (Packet.mk 0x0C 0xC2 0x05 0x80).b2 ∧
      ¬cinDataBytes ((Packet.mk 0x0C 0xC2 0x05 0x63).b0.extractLsb' 0 4) = 2 := by decide

/-- A used byte in range, one out of range (DATA comes first), and a kind with no data byte at all. -/
theorem witness_UnusedBytesFollowPadCheck_reject :
    ∀ p ∈ [Packet.mk 0x0C 0xC2 0x7F 0x01, Packet.mk 0x0C 0xC2 0x80 0x01, Packet.mk 0x0F 0xF8 0x80 0x80],
      CinAdmits (p.b0.extractLsb' 0 4) p.b1 ∧ ¬UnusedBytesZero p := by decide

/-- The boundary values 0x7F and 0x80 of both data bytes. -/
theorem witness_DataOutOfRangeIsRejected :
    ∀ p ∈ [Packet.mk 0x09 0x91 0x7F 0x7F, Packet.mk 0x09 0x91 0x80 0x7F, Packet.mk 0x09 0x91 0x7F 0x80],
      (decState false .ignore p).invoked = some .dec ∧ (decState false .ignore p).params.decodeStub = false ∧
        CinAdmits (((decState false .ignore p).decIn.read 0).extractLsb' 0 4) ((decState false .ignore p).decIn.read 1) ∧
        (HasDataOutOfRange (decState false .ignore p).decIn.packet ↔ p ≠ Packet.mk 0x09 0x91 0x7F 0x7F) := by decide

/-- The clauses of `FirstCause` up to STATUS (the clause STUB has no other hypothesis than `decodeStub`). -/
theorem witness_FirstRejectionCauseIsReported_cin_status :
    CinHasNoCategory ((Packet.mk 0x07 0xF7 0 0).b0.extractLsb' 0 4) ∧
      (¬CinHasNoCategory ((Packet.mk 0x0F 0xF9 0 0).b0.extractLsb' 0 4) ∧
        ¬CinAdmits ((Packet.mk 0x0F 0xF9 0 0).b0.extractLsb' 0 4) (Packet.mk 0x0F 0xF9 0 0).b1) := by decide

/-- The clause DATA of `FirstCause`, a non-zero unused byte beside it. -/
theorem witness_FirstRejectionCauseIsReported_data :
    CinAdmits ((Packet.mk 0x0C 0xC2 0x80 0x63).b0.extractLsb' 0 4) (Packet.mk 0x0C 0xC2 0x80 0x63).b1 ∧
      HasDataOutOfRange (Packet.mk 0x0C 0xC2 0x80 0x63) := by decide

/-- The clauses PAD and "no cause" of `FirstCause`: one packet under both values of `PAD_CHECK`, and one with its unused
byte 0x00 under Reject. -/
theorem witness_FirstRejectionCauseIsReported_pad_none :
    (CinAdmits ((Packet.mk 0x0C 0xC2 0x7F 0x80).b0.extractLsb' 0 4) (Packet.mk 0x0C 0xC2 0x7F 0x80).b1 ∧
      ¬HasDataOutOfRange (Packet.mk 0x0C 0xC2 0x7F 0x80) ∧ ¬UnusedBytesZero (Packet.mk 0x0C 0xC2 0x7F 0x80)) ∧
    (CinAdmits ((Packet.mk 0x0C 0xC2 0x7F 0x00).b0.extractLsb' 0 4) (Packet.mk 0x0C 0xC2 0x7F 0x00).b1 ∧
      ¬HasDataOutOfRange (Packet.mk 0x0C 0xC2 0x7F 0x00) ∧ UnusedBytesZero (Packet.mk 0x0C 0xC2 0x7F 0x00)) := by decide

theorem witness_FirstRejectionCauseIsReported_ports :
    (decState true .reject ⟨0, 0, 0, 0⟩).invoked = some .dec ∧ (encState ⟨0, 0, 0, 0, 0⟩).invoked = some .enc ∧
      (State.reset.present (.nmake 16)).invoked = some .nmake := by decide

theorem witness_NsplitOutputs : (State.reset.present (.nsplit 0x9F)).invoked = some .nsplit := by decide

theorem witness_NcombOutputs : (State.reset.present (.ncomb 0xA 0x5)).invoked = some .ncomb := by decide

/-- The largest value that fits, and the smallest that does not. -/
theorem witness_NmakeOutputs :
    ((State.reset.present (.nmake 15)).invoked = some .nmake ∧ (State.reset.present (.nmake 15)).nmIn.toNat ≤ 15) ∧
      ((State.reset.present (.nmake 16)).invoked = some .nmake ∧ 15 < (State.reset.present (.nmake 16)).nmIn.toNat) := by
  decide

/-- An invocation that ends in an error, and a block nobody invoked. -/
theorem witness_StepMovesOnlyItsPort :
    ((encState ⟨0, 0x1D, 0, 0, 0⟩).invoked = some .enc ∧ ∃ t, step (encState ⟨0, 0x1D, 0, 0, 0⟩) = .next t) ∧
      State.reset.invoked = none := ⟨⟨rfl, _, rfl⟩, rfl⟩

/-- Two states that share nothing but their parameters. -/
theorem witness_ResultsDependOnInputsAndParametersOnly :
    State.reset.params = (encState ⟨3, 0x1F, 1, 2, 4⟩).params ∧ State.reset ≠ encState ⟨3, 0x1F, 1, 2, 4⟩ := by decide

theorem witness_InvocationsAreIdempotent : (encState ⟨0, 0x1D, 0, 0, 0⟩).invoked ≠ none := by decide

/-- `PortsAgreeIsKept`: the reset state meets the invariant, and both a step and an invocation from it answer. -/
theorem witness_PortsAgreeIsKept :
    PortsAgree State.reset ∧ (∃ t, step State.reset = .next t) ∧ ∃ t, invoke State.reset (.nmake 255) = .next t :=
  ⟨⟨by decide, rfl, ⟨rfl, rfl⟩, by decide, by decide, by decide, fun _ => by decide⟩, ⟨_, rfl⟩, ⟨_, rfl⟩⟩

theorem witness_IndicatorsLegalIsKept : IndicatorsLegal State.reset ∧ ∃ t, step State.reset = .next t :=
  ⟨⟨by decide, by decide, by decide, fun h => (nomatch h)⟩, ⟨_, rfl⟩⟩

theorem witness_PacketsStayCanonical :
    PacketsCanonical (decState false .ignore ⟨0x09, 0x00, 0x3C, 0x64⟩) ∧
      ∃ t, step (decState false .ignore ⟨0x09, 0x00, 0x3C, 0x64⟩) = .next t := ⟨by decide, _, rfl⟩

/-- Every clause on ENC lines: a wrong count, a cable of 16, a channel of 16, a data field of 128, and the largest values. -/
theorem witness_LinesAssembleExactlyWhenWellFormed :
    assembleLine (.enc 0 .noteOn [1, 60]) = .error .fieldCount ∧
      assembleLine (.enc 16 .noteOn [15, 127, 127]) = .error .fieldWidth ∧
      assembleLine (.enc 15 .noteOn [16, 127, 127]) = .error .fieldWidth ∧
      assembleLine (.enc 15 .noteOn [15, 127, 128]) = .error .fieldWidth ∧
      assembleLine (.enc 15 .noteOn [15, 127, 127]) = .ok (.enc ⟨15, 0x09, 15, 127, 127⟩) := ⟨rfl, rfl, rfl, rfl, rfl⟩

/-- The clauses on the other lines, on both sides of each bound. -/
theorem witness_LinesAssembleExactlyWhenWellFormed_ports :
    assembleLine (.dec 255 255 255 255) = .ok (.dec ⟨0xFF, 0xFF, 0xFF, 0xFF⟩) ∧
      assembleLine (.dec 256 0 0 0) = .error .fieldWidth ∧ assembleLine (.nsplit 255) = .ok (.nsplit 0xFF) ∧
      assembleLine (.nsplit 256) = .error .fieldWidth ∧ assembleLine (.ncomb 15 15) = .ok (.ncomb 0xF 0xF) ∧
      assembleLine (.ncomb 16 15) = .error .fieldWidth ∧ assembleLine (.ncomb 15 16) = .error .fieldWidth ∧
      assembleLine (.nmake 255) = .ok (.nmake 0xFF) ∧ assembleLine (.nmake 256) = .error .fieldWidth :=
  ⟨rfl, rfl, rfl, rfl, rfl, rfl, rfl, rfl, rfl⟩

/-- Lines that assemble, of kinds that lack a channel, one data field or both. -/
theorem witness_ListingWordFields_lines :
    assembleLine (.enc 5 .tuneRequest []) = .ok (.enc ⟨5, 0x16, 0, 0, 0⟩) ∧ Kind.tuneRequest.isChannelVoice = false ∧
      Kind.tuneRequest.ndata = 0 ∧ assembleLine (.enc 0 .programChange [15, 127]) = .ok (.enc ⟨0, 0x0C, 15, 127, 0⟩) ∧
      Kind.programChange.ndata = 1 := ⟨rfl, rfl, rfl, rfl, rfl⟩

/-! ### Reset of any instance (R281) -/

/-- R208, R247: the stub instance's `dec_reason` is STUB from reset on, every other's is CIN for the inputs of log 4. -/
theorem test_reset_reason :
    (resetWith true .reject).decOut.reason = 1 ∧ (resetWith false .reject).decOut.reason = 2 ∧
      State.reset.decOut.reason = 2 := by decide

/-- `ParametersAndCinTableHoldAcrossReset`: a step that answers, from an instance whose parameters are not the defaults. -/
theorem witness_ParametersAndCinTableHoldAcrossReset :
    (resetWith true .reject).params ≠ .default ∧
      ∃ t, step (decState true .reject ⟨0x09, 0x91, 0x3C, 0x64⟩) = .next t := ⟨by decide, _, rfl⟩

/-- `EveryInstanceAgreesAfterReset`: a state in the middle of a run that meets both invariants, under the stub. -/
theorem witness_EveryInstanceAgreesAfterReset :
    PortsAgree { resetWith true .reject with invoked := some .nsplit, nsIn := 0x9F, nsOut := ⟨0x9, 0xF⟩ } ∧
      IndicatorsLegal { resetWith true .reject with invoked := some .nsplit, nsIn := 0x9F, nsOut := ⟨0x9, 0xF⟩ } :=
  ⟨⟨by decide, rfl, ⟨rfl, rfl⟩, by decide, by decide, by decide, fun _ => by decide⟩,
    ⟨by decide, by decide, by decide, fun h => (nomatch h)⟩⟩

end Sys2Proof.Tests
end

section
/-! PROOFS of the family 20_memory: invocations share no state (R20, R50, R51). For each port one lemma says that its step
answers, that only the port's own outputs move, and that the result is the port's pure function of the inputs. -/

namespace Sys2Proof.Machine

/-! ### The packet the encode port assembles is the table's packet (R63, R120, R181, R182) -/

/-- R141: the Raw encoder's status byte is byte 1 of the table's packet; a channel-voice status is the category with the
channel in its low nibble. -/
theorem raw_status_eq_encode_b1 (i : Instr) : (raw i.message).status = (encode i).b1 := by
  cases i with
  | noteOff _ ch _ _ => exact status_eq_append 0x8#4 ch
  | noteOn _ ch _ _ => exact status_eq_append 0x9#4 ch
  | polyKeyPressure _ ch _ _ => exact status_eq_append 0xA#4 ch
  | controlChange _ ch _ _ => exact status_eq_append 0xB#4 ch
  | programChange _ ch _ => exact status_eq_append 0xC#4 ch
  | channelPressure _ ch _ => exact status_eq_append 0xD#4 ch
  | pitchBend _ ch _ _ => exact status_eq_append 0xE#4 ch
  | _ => rfl

/-- R63: the data bytes of a payload, each behind a 0 bit, an unused one 0x00. -/
theorem placeBytes_eq (header : Byte) (r : Raw) :
    placeBytes header r =
      ⟨header, r.status, (r.payload.d1?.map (0#1 ++ ·)).getD 0x00#8, (r.payload.d2?.map (0#1 ++ ·)).getD 0x00#8⟩ := by
  obtain ⟨status, payload⟩ := r
  cases payload <;> simp [placeBytes, Payload.d1?, Payload.d2?, zext8_eq_append]

/-- The two designs of encode agree: assembling the Raw pair gives the packet of the opcode table. -/
theorem assemblePacket_eq_encode (i : Instr) : assemblePacket i.event (raw i.message) = encode i := by
  unfold assemblePacket
  rw [combine_eq_append, placeBytes_eq, raw_status_eq_encode_b1]
  cases i <;> rfl

/-- R206: a message is what `messageOf` reads from its own descriptor fields; whatever the free values are in the fields the
kind does not have, they are not read. -/
theorem messageOf_delivered (m : Message) (freeChan : Channel) (free1 free2 : U7) :
    messageOf m.kind (m.chan?.getD freeChan) ((raw m).payload.d1?.getD free1) ((raw m).payload.d2?.getD free2) = m := by
  cases m <;> rfl

@[simp] theorem Reason.ofCode_code (r : Reason) : Reason.ofCode r.code = some r := by cases r <;> rfl

/-! ### What the updates of a step leave unchanged (R32, R35, R244) -/

theorem driveEncode_moves_only_enc (p : Packet) (s : State) : OnlyPortMoved .enc s (driveEncode p s) := by
  constructor <;> simp

theorem driveDecode_moves_only_dec (e : UsbMidiEventPacket) (d : Payload) (s : State) :
    OnlyPortMoved .dec s (driveDecode e d s) := by
  constructor <;> simp

theorem raiseError_moves_only_enc (k : KindCode) (s : State) :
    OnlyPortMoved .enc s (raiseError (.invalidKind k) s) := by
  constructor <;> simp

theorem raiseError_moves_only_dec (r : Reason) (s : State) :
    OnlyPortMoved .dec s (raiseError (.invalidPacket r) s) := by
  constructor <;> simp

theorem raiseError_moves_only_nmake (v : Byte) (s : State) :
    OnlyPortMoved .nmake s (raiseError (.outOfRange v) s) := by
  constructor <;> simp

/-! ### The step of each port: its frame and its result -/

/-- The step of port `p` from `s` answers, moves only that port's outputs, and returns `r`. -/
def StepReturns (p : Port) (s : State) (r : Result) : Prop :=
  ∃ t, step s = .next t ∧ OnlyPortMoved p s t ∧ t.result = some r

theorem step_enc_returns (s : State) (h : s.invoked = some .enc) :
    StepReturns .enc s (portFunction s.params (.enc s.encIn)) := by
  cases hd : decodeEncIn s.encIn with
  | some i =>
    refine ⟨driveEncode (encode i) s, ?_, driveEncode_moves_only_enc _ _, ?_⟩
    · simp [step, h, fetchEncode, hd, runFetched, exec_enc i s h, assemblePacket_eq_encode]
    · simp [State.result, h, readEncode, portFunction, hd]
  | none =>
    refine ⟨raiseError (.invalidKind s.encIn.kind) s, ?_, raiseError_moves_only_enc _ _, ?_⟩
    · simp [step, h, fetchEncode, hd, runFetched]
    · simp [State.result, h, readEncode, portFunction, hd]

theorem step_dec_returns (s : State) (h : s.invoked = some .dec) :
    StepReturns .dec s (portFunction s.params (.dec s.decIn.packet)) := by
  cases hd : decodePacket s.params s.decIn.packet with
  | ok i =>
    refine ⟨driveDecode i.event (raw i.message).payload s, ?_, driveDecode_moves_only_dec _ _ _, ?_⟩
    · simp [step, h, fetchDecode, hd, runFetched, exec_dec i s h]
    · simp [State.result, h, readDecode, portFunction, hd, Instr.message, messageOf_delivered]
  | error r =>
    refine ⟨raiseError (.invalidPacket r) s, ?_, raiseError_moves_only_dec _ _, ?_⟩
    · simp [step, h, fetchDecode, hd, runFetched]
    · simp [State.result, h, readDecode, portFunction, hd]

theorem step_nsplit_returns (s : State) (h : s.invoked = some .nsplit) :
    StepReturns .nsplit s (portFunction s.params (.nsplit s.nsIn)) := by
  have hstep : step s = execNsplit s := by simp [step, h]
  refine ⟨_, hstep, by constructor <;> simp, ?_⟩
  simp [State.result, h, portFunction, split]

theorem step_ncomb_returns (s : State) (h : s.invoked = some .ncomb) :
    StepReturns .ncomb s (portFunction s.params (.ncomb s.ncIn.high s.ncIn.low)) := by
  have hstep : step s = execNcomb s := by simp [step, h]
  refine ⟨_, hstep, by constructor <;> simp, ?_⟩
  simp [State.result, h, portFunction, combine_eq_append]

theorem step_nmake_returns (s : State) (h : s.invoked = some .nmake) :
    StepReturns .nmake s (portFunction s.params (.nmake s.nmIn)) := by
  have hstep : step s = execNmake s := by simp [step, h]
  by_cases hv : s.nmIn.toNat ≤ 15
  · refine ⟨_, hstep.trans (execNmake_of_le s hv), by constructor <;> simp, ?_⟩
    simp [State.result, h, readNmake, portFunction, hv]
  · refine ⟨_, hstep.trans (execNmake_of_gt s (by omega)), raiseError_moves_only_nmake _ _, ?_⟩
    simp [State.result, h, readNmake, portFunction, hv]

/-- R20: an invocation answers, keeps the parameters, and returns its port's pure function of its inputs. -/
theorem invoke_returns_portFunction (s : State) (inv : Invocation) :
    ∃ t, invoke s inv = .next t ∧ t.params = s.params ∧ t.result = some (portFunction s.params inv) := by
  have ofStep : ∀ {p : Port} {r : Result}, StepReturns p (s.present inv) r →
      ∃ t, invoke s inv = .next t ∧ t.params = s.params ∧ t.result = some r := by
    rintro p r ⟨t, hstep, moved, hres⟩
    exact ⟨t, hstep, moved.params.trans (present_params s inv), hres⟩
  cases inv with
  | enc e => simpa using ofStep (step_enc_returns _ (present_enc_invoked s e))
  | dec p => simpa using ofStep (step_dec_returns _ (present_dec_invoked s p))
  | nsplit b => simpa using ofStep (step_nsplit_returns _ (present_nsplit_invoked s b))
  | ncomb high low => simpa using ofStep (step_ncomb_returns _ (present_ncomb_invoked s high low))
  | nmake v => simpa using ofStep (step_nmake_returns _ (present_nmake_invoked s v))

/-! ### The obligations -/

/-- Settles O43: both results are the port's pure function of the inputs and the shared parameters. -/
theorem resultsDependOnInputsAndParametersOnly : Obligations.ResultsDependOnInputsAndParametersOnly := by
  intro s s' inv hparams
  obtain ⟨t, hinv, -, hres⟩ := invoke_returns_portFunction s inv
  obtain ⟨t', hinv', -, hres'⟩ := invoke_returns_portFunction s' inv
  exact ⟨t, t', hinv, hinv', by rw [hres, hres', hparams], by simp [hres]⟩

/-- Settles O45, by induction on the list of invocations: each keeps the parameters, the only part of the state a later
result depends on. -/
theorem transcriptIsThePurePortFunctions : Obligations.TranscriptIsThePurePortFunctions := by
  intro s invs
  induction invs generalizing s with
  | nil => rfl
  | cons inv rest ih =>
    obtain ⟨t, hinv, hparams, hres⟩ := invoke_returns_portFunction s inv
    simp only [transcript, hinv, hres, ih t, hparams, List.map_cons]

end Sys2Proof.Machine
end

section
/-! PROOFS of the family 30_encoding: the match and mask table is the decoder (R69), and the fields of the listing word
(R66). R69's row of a kind is read byte by byte: header, status byte, and the two data bytes, each used or unused. -/

namespace Sys2Proof

open Machine
open Laws.Encoding (masked_header masked_status masked_fixed)

/-! ### The status byte of a kind (R62) -/

/-- R62: byte 1 of every packet of a kind, by the channel; a system kind ignores the channel. -/
def Kind.statusByte (k : Kind) (ch : Channel) : Byte := (encode (.ofEvent 0#4 (messageOf k ch 0#7 0#7))).b1

theorem Kind.statusByte_of_channelVoice {k : Kind} (h : k.isChannelVoice = true) (ch : Channel) :
    k.statusByte ch = cinOf k ++ ch := by
  revert h ch
  cases k <;> decide

theorem Kind.statusByte_of_system {k : Kind} (h : k.isChannelVoice = false) (ch : Channel) :
    k.statusByte ch = k.statusByte 0#4 := by
  revert h ch
  cases k <;> decide

/-- R203: the CIN of a channel-voice kind admits the status bytes of its own category. -/
theorem classify_channelVoice {k : Kind} (h : k.isChannelVoice = true) (st : Byte) :
    classify (cinOf k) st = whenStatus (highNibble st == cinOf k) k := by
  cases k with
  | noteOff | noteOn | polyKeyPressure | controlChange | programChange | channelPressure | pitchBend => rfl
  | _ => exact absurd h (by decide)

theorem classify_system {k : Kind} (h : k.isChannelVoice = false) : classify (cinOf k) (k.statusByte 0#4) = .ok k := by
  cases k with
  | noteOff | noteOn | polyKeyPressure | controlChange | programChange | channelPressure | pitchBend =>
    exact absurd h (by decide)
  | _ => rfl

theorem classify_statusByte (k : Kind) (ch : Channel) : classify (cinOf k) (k.statusByte ch) = .ok k := by
  cases hcv : k.isChannelVoice with
  | false => rw [Kind.statusByte_of_system hcv, classify_system hcv]
  | true =>
    rw [Kind.statusByte_of_channelVoice hcv, classify_channelVoice hcv, highNibble_append, whenStatus_eq_ok]
    exact ⟨beq_self_eq_true _, rfl⟩

/-- R68: a CIN and a status byte name a kind exactly when they are that kind's own. -/
theorem classify_eq_ok_iff {cin : CodeIndexNumber} {st : Byte} {k : Kind} :
    classify cin st = .ok k ↔ cinOf k = cin ∧ k.statusByte (lowNibble st) = st := by
  constructor
  · intro h
    obtain ⟨hcin, -, -, -, hst⟩ := classify_ok h
    exact ⟨hcin, hst _ _ _⟩
  · rintro ⟨rfl, hst⟩
    rw [← hst]
    exact classify_statusByte k _

/-! ### What a packet decodes to a kind on -/

/-- R200: a packet decodes to a kind exactly when it is classified as that kind and no check on its data bytes fails. -/
theorem decodes_to_kind_iff {c : Params} {p : Packet} {k : Kind} (hs : c.decodeStub = false) :
    (∃ i, decodePacket c p = .ok i ∧ i.kind = k) ↔
      classify (lowNibble p.b0) p.b1 = .ok k ∧ dataRejected k.ndata p.b2 p.b3 = false ∧
        (c.padCheck = .reject → padRejected k.ndata p.b2 p.b3 = false) := by
  constructor
  · rintro ⟨i, hi, rfl⟩
    obtain ⟨k, -, hk, hdata, hpad, rfl⟩ := decodePacket_ok hi
    rw [Instr.kind_ofEvent, messageOfPacket, messageOf_kind]
    exact ⟨hk, hdata, hpad⟩
  · rintro ⟨hk, hdata, hpad⟩
    refine ⟨.ofEvent (highNibble p.b0) (messageOfPacket k p), ?_, by simp [messageOfPacket]⟩
    rw [decodePacket_classified hs hk, if_neg (by simp [hdata]), if_neg (by simp_all)]

/-! ### The rows of R69, byte by byte -/

/-- R69, byte 1 of a row's masks: the category alone, or the whole system status. -/
def Kind.statusMask (k : Kind) : Byte := if k.isChannelVoice then 0xF0#8 else 0xFF#8

/-- R69, byte 2 or 3 of a row's masks: bit 7 of a used data byte, nothing or all of an unused one (R63, R207). -/
def dataMask (c : PadCheck) (used : Bool) : Byte :=
  if used then 0x80#8
  else match c with
    | .ignore => 0x00#8
    | .reject => 0xFF#8

theorem Kind.row_maskFor_bytes (k : Kind) (c : PadCheck) :
    Packet.ofPkt32 (k.row.maskFor c) =
      ⟨0x0F#8, k.statusMask, dataMask c (decide (1 ≤ k.ndata)), dataMask c (k.ndata == 2)⟩ := by
  cases c <;> cases k <;> rfl

theorem Kind.row_pattern_bytes (k : Kind) :
    Packet.ofPkt32 k.row.pattern = ⟨0#4 ++ cinOf k, k.statusByte 0#4, 0x00#8, 0x00#8⟩ := by
  cases k <;> rfl

/-- R61: the header's share of a row is the CIN, whatever the cable. -/
theorem masked_header_iff (b : Byte) (cin : CodeIndexNumber) : b &&& 0x0F#8 = 0#4 ++ cin ↔ cin = lowNibble b := by
  have hmask : b &&& 0x0F#8 = 0#4 ++ lowNibble b := by
    have h := masked_header (highNibble b) (lowNibble b)
    rwa [append_nibbles] at h
  rw [hmask]
  constructor
  · intro h
    simpa using (congrArg lowNibble h).symm
  · rintro rfl
    rfl

/-- R62: the status byte's share of a row, the channel masked out of a channel-voice status. -/
theorem masked_statusByte_iff (k : Kind) (st : Byte) :
    st &&& k.statusMask = k.statusByte 0#4 ↔ k.statusByte (lowNibble st) = st := by
  cases hcv : k.isChannelVoice with
  | false => simp [Kind.statusMask, hcv, masked_fixed, Kind.statusByte_of_system hcv (lowNibble st), eq_comm]
  | true =>
    have hmask : st &&& 0xF0#8 = highNibble st ++ 0#4 := by
      have h := masked_status (highNibble st) (lowNibble st)
      rwa [append_nibbles] at h
    simp only [Kind.statusMask, hcv, if_true, hmask, Kind.statusByte_of_channelVoice hcv]
    constructor
    · intro h
      exact append_lowNibble_of_high (by simpa using congrArg highNibble h)
    · intro h
      rw [← h, highNibble_append]

theorem masked_used_iff (c : PadCheck) (b : Byte) : b &&& dataMask c true = 0x00#8 ↔ b.msb = false := by
  revert b
  cases c <;> decide

theorem masked_unused_iff (c : PadCheck) (b : Byte) :
    b &&& dataMask c false = 0x00#8 ↔ (c = .reject → b = 0x00#8) := by
  cases c <;> simp [dataMask, masked_fixed]

theorem Kind.ndata_cases (k : Kind) : k.ndata = 0 ∨ k.ndata = 1 ∨ k.ndata = 2 := by
  cases k <;> decide

/-- R205, R207: the data bytes' share of a row is the check of the used bytes and, under Reject, of the unused ones. -/
theorem masked_data_iff (k : Kind) (c : PadCheck) (b2 b3 : Byte) :
    (b2 &&& dataMask c (decide (1 ≤ k.ndata)) = 0x00#8 ∧ b3 &&& dataMask c (k.ndata == 2) = 0x00#8) ↔
      dataRejected k.ndata b2 b3 = false ∧ (c = .reject → padRejected k.ndata b2 b3 = false) := by
  rcases k.ndata_cases with h | h | h <;>
    simp [h, masked_used_iff, masked_unused_iff, dataRejected, padRejected, imp_and]

/-- R69: a packet matches a kind's row exactly when it is classified as that kind and no check on its data bytes fails. -/
theorem matches_row_iff (p : Packet) (k : Kind) (c : PadCheck) :
    p.pkt32 &&& k.row.maskFor c = k.row.pattern ↔
      classify (lowNibble p.b0) p.b1 = .ok k ∧ dataRejected k.ndata p.b2 p.b3 = false ∧
        (c = .reject → padRejected k.ndata p.b2 p.b3 = false) := by
  rw [Packet.masked_eq_iff, Kind.row_maskFor_bytes, Kind.row_pattern_bytes, classify_eq_ok_iff, masked_header_iff,
    masked_statusByte_iff, masked_data_iff, and_assoc]

/-- R69 "a packet is of a kind exactly when `(PKT32 & mask) == match`". -/
theorem decodes_to_kind_iff_matches_row {c : Params} (hs : c.decodeStub = false) (p : Packet) (k : Kind) :
    (∃ i, decodePacket c p = .ok i ∧ i.kind = k) ↔ p.pkt32 &&& k.row.maskFor c.padCheck = k.row.pattern :=
  (decodes_to_kind_iff hs).trans (matches_row_iff p k c.padCheck).symm

theorem row_mask_without_cable (k : Kind) (c : PadCheck) : k.row.maskFor c &&& 0xF0000000#32 = 0#32 := by
  cases c <;> cases k <;> rfl

/-- No packet matches two rows: the CIN and the status byte classify it as one kind. -/
theorem kind_unique_of_matches_row {p : Packet} {k k' : Kind} (h : p.pkt32 &&& k.row.mask = k.row.pattern)
    (h' : p.pkt32 &&& k'.row.mask = k'.row.pattern) : k = k' := by
  obtain ⟨hk, -⟩ := (matches_row_iff p k .ignore).mp h
  obtain ⟨hk', -⟩ := (matches_row_iff p k' .ignore).mp h'
  exact Except.ok.inj (hk.symm.trans hk')

/-! ### The listing word (R66) -/

/-- The data fields of an ENC line: its fields behind the channel, where the kind has one (R72). -/
def lineData (k : Kind) (fields : List Nat) : List Nat := if k.isChannelVoice then fields.drop 1 else fields

theorem descriptorFields_eq (k : Kind) (fields : List Nat) :
    descriptorFields k fields =
      (BitVec.ofNat 4 (if k.isChannelVoice then fields.headD 0 else 0), BitVec.ofNat 7 ((lineData k fields).headD 0),
        BitVec.ofNat 7 (((lineData k fields).drop 1).headD 0)) := rfl

theorem lineData_length {k : Kind} {fields : List Nat} (h : fields.length = k.fieldCount) :
    (lineData k fields).length = k.ndata := by
  cases hcv : k.isChannelVoice <;> simp [lineData, hcv, h, Kind.fieldCount]

/-- R72: an ENC line that assembles has the kind's field count, and assembles to the kind's code and its fields. -/
theorem assembleLine_enc_ok {cable : Nat} {k : Kind} {fields : List Nat} {e : EncIn}
    (h : assembleLine (.enc cable k fields) = .ok (.enc e)) :
    fields.length = k.fieldCount ∧
      e = ⟨BitVec.ofNat 4 cable, k.code, (descriptorFields k fields).1, (descriptorFields k fields).2.1,
        (descriptorFields k fields).2.2⟩ := by
  unfold assembleLine at h
  dsimp only at h
  split at h
  · cases h
  · rename_i hcount
    split at h
    · cases h
      exact ⟨Classical.not_not.mp hcount, rfl⟩
    · cases h

/-- R66: 0 in every field of a line's inputs that the kind does not use. -/
theorem assembleLine_unused_zero {cable : Nat} {k : Kind} {fields : List Nat} {e : EncIn}
    (h : assembleLine (.enc cable k fields) = .ok (.enc e)) :
    e.kind = k.code ∧ (k.isChannelVoice = false → e.chan = 0#4) ∧ (k.ndata = 0 → e.d1 = 0#7) ∧
      (k.ndata ≤ 1 → e.d2 = 0#7) := by
  obtain ⟨hcount, rfl⟩ := assembleLine_enc_ok h
  have hlen := lineData_length hcount
  rw [descriptorFields_eq]
  refine ⟨rfl, fun hcv => ?_, fun h0 => ?_, fun h1 => ?_⟩
  · simp [hcv]
  · rw [List.eq_nil_of_length_eq_zero (hlen.trans h0)]
    rfl
  · rw [List.drop_eq_nil_of_le (hlen ▸ h1)]
    rfl

/-- R65, R66: the descriptor fields of an instruction's inputs are its message's own, 0 where it has none. -/
theorem encodeEncIn_fields (i : Instr) :
    (encodeEncIn i).chan = i.message.chan?.getD 0#4 ∧ (encodeEncIn i).d1 = (raw i.message).payload.d1?.getD 0#7 ∧
      (encodeEncIn i).d2 = (raw i.message).payload.d2?.getD 0#7 := by
  cases i <;> exact ⟨rfl, rfl, rfl⟩

theorem Message.chan?_isSome (m : Message) : m.chan?.isSome = m.kind.isChannelVoice := by cases m <;> rfl

theorem raw_payload_length (m : Message) : (raw m).payload.length = m.kind.ndata := by cases m <;> rfl

theorem Payload.d1?_of_length_eq_zero {d : Payload} (h : d.length = 0) : d.d1? = none := by
  cases d with
  | empty => rfl
  | _ => simp [Payload.length] at h

theorem Payload.d2?_of_length_le_one {d : Payload} (h : d.length ≤ 1) : d.d2? = none := by
  cases d with
  | doubleByte => simp [Payload.length] at h
  | _ => rfl

/-- R66: 0 in every unused field of an instruction's inputs. -/
theorem encodeEncIn_unused_zero (i : Instr) :
    (i.kind.isChannelVoice = false → (encodeEncIn i).chan = 0#4) ∧ (i.kind.ndata = 0 → (encodeEncIn i).d1 = 0#7) ∧
      (i.kind.ndata ≤ 1 → (encodeEncIn i).d2 = 0#7) := by
  obtain ⟨hchan, h1, h2⟩ := encodeEncIn_fields i
  rw [hchan, h1, h2, Instr.kind, ← Message.chan?_isSome, ← raw_payload_length]
  refine ⟨fun h => ?_, fun h => ?_, fun h => ?_⟩
  · rw [Option.isNone_iff_eq_none.mp (Option.isSome_eq_false_iff.mp h)]
    rfl
  · rw [Payload.d1?_of_length_eq_zero h]
    rfl
  · rw [Payload.d2?_of_length_le_one h]
    rfl

theorem encw_fields (e : EncIn) :
    e.encw.extractLsb' 23 4 = e.cable ∧ e.encw.extractLsb' 18 5 = e.kind ∧ e.encw.extractLsb' 14 4 = e.chan ∧
      e.encw.extractLsb' 7 7 = e.d1 ∧ e.encw.extractLsb' 0 7 = e.d2 := by
  unfold EncIn.encw
  refine ⟨?cable, ?kind, ?chan, ?d1, BitVec.extractLsb'_append_eq_right⟩
  case d1 => exact (BitVec.extractLsb'_append_eq_of_le (by decide)).trans BitVec.extractLsb'_append_eq_right
  case chan =>
    rw [BitVec.extractLsb'_append_eq_of_le (by decide), BitVec.extractLsb'_append_eq_of_le (by decide)]
    exact BitVec.extractLsb'_append_eq_right
  case kind =>
    rw [BitVec.extractLsb'_append_eq_of_le (by decide), BitVec.extractLsb'_append_eq_of_le (by decide),
      BitVec.extractLsb'_append_eq_of_le (by decide)]
    exact BitVec.extractLsb'_append_eq_right
  case cable =>
    rw [BitVec.extractLsb'_append_eq_of_le (by decide), BitVec.extractLsb'_append_eq_of_le (by decide),
      BitVec.extractLsb'_append_eq_of_le (by decide)]
    exact BitVec.extractLsb'_append_eq_left

@[simp] theorem encw_ofEncw (w : BitVec 27) : (EncIn.ofEncw w).encw = w := by
  unfold EncIn.encw EncIn.ofEncw
  dsimp only
  rw [BitVec.extractLsb'_append_extractLsb'_eq_extractLsb' (by decide),
    BitVec.extractLsb'_append_extractLsb'_eq_extractLsb' (by decide),
    BitVec.extractLsb'_append_extractLsb'_eq_extractLsb' (by decide),
    BitVec.extractLsb'_append_extractLsb'_eq_extractLsb' (by decide)]
  exact BitVec.extractLsb'_eq_self

/-! ### The obligations -/

/-- Settles O8: the decoder and the row's mask both come down to one condition on the packet's bytes
(`decodes_to_kind_iff_matches_row`). -/
theorem patternTableClassifiesPackets : Obligations.PatternTableClassifiesPackets :=
  ⟨rfl, fun _ p k hs => decodes_to_kind_iff_matches_row hs p k, row_mask_without_cable,
    fun _ _ _ => kind_unique_of_matches_row⟩

/-- Settles O6, from what an ENC line that assembles has for fields (`assembleLine_unused_zero`). -/
theorem listingWordFields : Obligations.ListingWordFields :=
  ⟨encw_fields, encw_ofEncw, fun _ _ _ _ => assembleLine_unused_zero, encodeEncIn_unused_zero⟩

end Sys2Proof
end

section
/-! PROOFS of the family 40_nibble: the three nibble ports (R100 to R102). One lemma per port says which next state its step
answers; that split and combine are inverse (R106) is then the inverse of the two functions on their inputs. -/

namespace Sys2Proof.Machine

/-! ### The next state of each nibble port -/

theorem step_nsplit (s : State) (h : s.invoked = some .nsplit) :
    step s = .next { s with
      nsOut := { high := highNibble s.nsIn, low := lowNibble s.nsIn }, draws := s.draws + 1 } := by
  simp [step, h, execNsplit, split]

theorem step_ncomb (s : State) (h : s.invoked = some .ncomb) :
    step s = .next { s with ncOut := combine s.ncIn.high s.ncIn.low, draws := s.draws + 1 } := by
  simp [step, h, execNcomb]

theorem step_nmake_of_le (s : State) (h : s.invoked = some .nmake) (hv : s.nmIn.toNat ≤ 15) :
    step s = .next { s with nmOut := { ok := true, nib := s.nmIn.setWidth 4 }, draws := s.draws + 1 } := by
  simpa [step, h] using execNmake_of_le s hv

theorem step_nmake_of_gt (s : State) (h : s.invoked = some .nmake) (hv : 15 < s.nmIn.toNat) :
    step s = .next (raiseError (.outOfRange s.nmIn) s) := by
  simpa [step, h] using execNmake_of_gt s hv

/-! ### What an invocation leaves on the port for the next one to read -/

theorem invoke_nsplit_nsOut (s : State) (b : Byte) :
    ∃ t, invoke s (.nsplit b) = .next t ∧ t.nsOut = { high := highNibble b, low := lowNibble b } :=
  ⟨_, step_nsplit _ (present_nsplit_invoked s b), rfl⟩

theorem invoke_ncomb_ncOut (s : State) (high low : Nibble) :
    ∃ t, invoke s (.ncomb high low) = .next t ∧ t.ncOut = high ++ low :=
  ⟨_, step_ncomb _ (present_ncomb_invoked s high low), combine_eq_append high low⟩

/-! ### The obligations -/

/-- Settles O40: the first invocation leaves its value on the port, and the second returns its port's function of that
value, which inverts the first (`highNibble_append` and `lowNibble_append`, `append_nibbles`). -/
theorem splitAndCombineAreInverse : Obligations.SplitAndCombineAreInverse := by
  refine ⟨fun s n1 n2 => ?splitOfCombine, fun s b => ?combineOfSplit⟩
  case splitOfCombine =>
    obtain ⟨t, hcombine, hbyte⟩ := invoke_ncomb_ncOut s n1 n2
    obtain ⟨u, hsplit, -, hres⟩ := invoke_returns_portFunction t (.nsplit t.ncOut)
    refine ⟨t, u, hcombine, hsplit, ?_⟩
    rw [hres, hbyte, portFunction, highNibble_append, lowNibble_append]
  case combineOfSplit =>
    obtain ⟨t, hsplit, hnibbles⟩ := invoke_nsplit_nsOut s b
    obtain ⟨u, hcombine, -, hres⟩ := invoke_returns_portFunction t (.ncomb t.nsOut.high t.nsOut.low)
    refine ⟨t, u, hsplit, hcombine, ?_⟩
    rw [hres, hnibbles, portFunction, append_nibbles]

/-- Settles O37: the formulas of R100 are `highNibble` and `lowNibble` written out. -/
theorem nsplitOutputs : Obligations.NsplitOutputs := step_nsplit

/-- Settles O38: the formula of R101 is `combine` written out. -/
theorem ncombOutputs : Obligations.NcombOutputs := step_ncomb

/-- Settles O39, one case on each side of 15; `v[3:0]` is the value cut to 4 bits. -/
theorem nmakeOutputs : Obligations.NmakeOutputs := by
  refine ⟨fun s h hv => ?fits, fun s h hv => ?tooLarge⟩
  case fits =>
    rw [step_nmake_of_le s h hv, BitVec.setWidth_eq_extractLsb' (by decide)]
  case tooLarge =>
    refine ⟨_, step_nmake_of_gt s h hv, raiseError_outOfRange_nmOut_ok _ s, raiseError_moves_only_nmake _ s, ?_⟩
    simp [State.result, h, readNmake]

end Sys2Proof.Machine
end

section
/-! PROOFS of the family 41_messages: every message on the encode port (R122 to R141). The Raw encoder's status byte is its
kind's status byte at its own channel, and its data bytes go out behind a 0 bit; so the assembled packet matches its own row
of R69, and one lemma (`sendsPacket`) gives the rule of every kind. -/

namespace Sys2Proof

open Machine

/-! ### The Raw pair of a message (R120, R139 to R141) -/

/-- R62, R120: the Raw encoder's status byte is the kind's, at the message's channel where it has one. -/
theorem raw_status_eq_statusByte (m : Message) : (raw m).status = m.kind.statusByte (m.chan?.getD 0#4) := by
  rw [← Instr.message_ofEvent 0#4 m, raw_status_eq_encode_b1]
  cases m <;> rfl

theorem Kind.statusByte_msb (k : Kind) (ch : Channel) : (k.statusByte ch).msb = true := by
  revert ch
  cases k <;> decide

theorem raw_status_msb (m : Message) : (raw m).status.msb = true := by
  rw [raw_status_eq_statusByte, Kind.statusByte_msb]

theorem Payload.length_eq_two_iff (d : Payload) : d.length = 2 ↔ ∃ a b, d = .doubleByte a b := by
  cases d <;> simp [Payload.length]

theorem Payload.length_eq_one_iff (d : Payload) : d.length = 1 ↔ ∃ a, d = .singleByte a := by
  cases d <;> simp [Payload.length]

theorem Payload.length_eq_zero_iff (d : Payload) : d.length = 0 ↔ d = .empty := by
  cases d <;> simp [Payload.length]

/-! ### The bytes of an assembled packet (R181, R182) -/

@[simp] theorem placeBytes_b0 (header : Byte) (r : Raw) : (placeBytes header r).b0 = header := by rw [placeBytes_eq]

@[simp] theorem placeBytes_b1 (header : Byte) (r : Raw) : (placeBytes header r).b1 = r.status := by rw [placeBytes_eq]

/-- R63, R140: a data byte, used or not, has bit 7 clear. -/
theorem placeBytes_data_msb (header : Byte) (r : Raw) :
    (placeBytes header r).b2.msb = false ∧ (placeBytes header r).b3.msb = false := by
  rw [placeBytes_eq]
  obtain ⟨status, payload⟩ := r
  cases payload <;> simp [Payload.d1?, Payload.d2?]

/-- R205: no data byte behind a header is out of range. -/
theorem placeBytes_dataRejected (n : Nat) (header : Byte) (r : Raw) :
    dataRejected n (placeBytes header r).b2 (placeBytes header r).b3 = false := by
  obtain ⟨h2, h3⟩ := placeBytes_data_msb header r
  simp [dataRejected, h2, h3]

/-- R63, R207: the bytes the payload does not use are 0x00. -/
theorem placeBytes_padRejected (header : Byte) (r : Raw) :
    padRejected r.payload.length (placeBytes header r).b2 (placeBytes header r).b3 = false := by
  rw [placeBytes_eq]
  obtain ⟨status, payload⟩ := r
  cases payload <;> simp [padRejected, Payload.length, Payload.d1?, Payload.d2?]

/-- R69: the packet of an instruction is of its own kind's row, under either mask. -/
theorem assemblePacket_matches_row (i : Instr) (c : PadCheck) :
    (assemblePacket i.event (raw i.message)).pkt32 &&& i.kind.row.maskFor c = i.kind.row.pattern := by
  rw [matches_row_iff, assemblePacket]
  refine ⟨?classified, placeBytes_dataRejected _ _ _, fun _ => ?pad⟩
  case classified =>
    rw [placeBytes_b0, placeBytes_b1, combine_eq_append, lowNibble_append, raw_status_eq_statusByte]
    exact classify_statusByte i.kind _
  case pad =>
    rw [Instr.kind, ← raw_payload_length]
    exact placeBytes_padRejected _ _

/-- What the rules R122 to R138 say alike of every instruction: it sends the packet it assembles, of its kind's row. -/
theorem sendsPacket (i : Instr) :
    SendsPacket i i.kind.code i.kind.row.pattern i.kind.row.mask i.kind.row.strictMask
      (assemblePacket i.event (raw i.message)) where
  code := rfl
  mask := assemblePacket_matches_row i .ignore
  strictMask := assemblePacket_matches_row i .reject
  sends := exec_enc i

/-! ### The obligations -/

/-- Settles O19: the status byte is the kind's (`raw_status_msb`), and placing the payload leaves bit 7 of the data bytes
clear (`placeBytes_data_msb`). -/
theorem statusByteHasBit7DataBytesDoNot : Obligations.StatusByteHasBit7DataBytesDoNot := by
  intro s i h
  have h1 : (assemblePacket i.event (raw i.message)).b1.msb = true := by
    rw [assemblePacket, placeBytes_b1, raw_status_msb]
  obtain ⟨h2, h3⟩ := placeBytes_data_msb (combine i.cable (cinOf i.kind)) (raw i.message)
  refine ⟨_, exec_enc i s h, raw_status_msb i.message, ?_, ?_, ?_⟩ <;> rw [driveEncode_encOut, Memory.read_ofPacket]
  · exact h1
  · exact h2
  · exact h3

/-- Settles O10: each kind's packet is the one `sendsPacket` gives, its header and status formulas written out. -/
theorem channelVoiceDoubleByteSends : Obligations.ChannelVoiceDoubleByteSends := fun cn ch a b =>
  ⟨sendsPacket (.noteOff cn ch a b), sendsPacket (.noteOn cn ch a b), sendsPacket (.polyKeyPressure cn ch a b),
    sendsPacket (.controlChange cn ch a b), sendsPacket (.pitchBend cn ch a b), rfl, rfl, rfl, rfl, rfl⟩

/-- Settles O11: as `channelVoiceDoubleByteSends`; the descriptor's `d2` is not read. -/
theorem channelVoiceSingleByteSends : Obligations.ChannelVoiceSingleByteSends := fun cn ch a _ =>
  ⟨sendsPacket (.programChange cn ch a), sendsPacket (.channelPressure cn ch a), rfl, rfl⟩

/-- Settles O12: each kind's packet is the one `sendsPacket` gives; the descriptor fields a kind lacks are not read. -/
theorem systemCommonSends : Obligations.SystemCommonSends := fun cn _ a b =>
  ⟨sendsPacket (.mtcQuarterFrame cn a), sendsPacket (.songPosition cn a b), sendsPacket (.songSelect cn a),
    sendsPacket (.tuneRequest cn), rfl, rfl, rfl, rfl⟩

/-- Settles O13: each kind's packet is the one `sendsPacket` gives; of the descriptor only cable and kind are read. -/
theorem systemRealTimeSends : Obligations.SystemRealTimeSends := fun cn _ _ _ =>
  ⟨sendsPacket (.timingClock cn), sendsPacket (.start cn), sendsPacket (.continue_ cn), sendsPacket (.stop cn),
    sendsPacket (.activeSensing cn), sendsPacket (.systemReset cn), rfl, rfl, rfl, rfl, rfl, rfl⟩

/-- Settles O18: the payload has `ndata` bytes (`raw_payload_length`), and its length is its shape. -/
theorem payloadArity : Obligations.PayloadArity := by
  intro m
  rw [← Payload.length_eq_two_iff, ← Payload.length_eq_one_iff, ← Payload.length_eq_zero_iff, raw_payload_length]
  cases m.kind <;> decide

/-- Settles O20: a channel-voice status byte is the category in front of the channel (`Kind.statusByte_of_channelVoice`). -/
theorem channelCarriedUnchanged : Obligations.ChannelCarriedUnchanged := by
  intro m hcv
  obtain ⟨ch, hch⟩ := Option.isSome_iff_exists.mp ((Message.chan?_isSome m).trans hcv)
  rw [raw_status_eq_statusByte, Kind.statusByte_of_channelVoice hcv, ← lowNibble_eq_extract, lowNibble_append, hch]
  rfl

end Sys2Proof
end

section
/-! PROOFS of the family 42_cin_classifier: the Code Index Number of a kind (R161) and the CIN values no packet carries
(R164). Whatever an instruction sends has its kind's CIN below the cable; a kind's CIN has a category, since the classifier
accepts it, and a CIN without one is rejected. -/

namespace Sys2Proof

open Machine

/-! ### The CIN of a kind -/

/-- R164: a kind's CIN has a category, since with the kind's own status byte it classifies as that kind. -/
theorem cinOf_has_category (k : Kind) : ¬CinHasNoCategory (cinOf k) := by
  obtain ⟨-, -, -, hcat, -⟩ := classify_ok (classify_statusByte k 0#4)
  exact hcat

/-! ### The CIN on the encode port -/

/-- R181: below the cable, the header an instruction sends has the CIN of its kind. -/
theorem sent_cin (i : Instr) (s : State) :
    ((driveEncode (assemblePacket i.event (raw i.message)) s).encOut.pkt.read 0).extractLsb' 0 4 = cinOf i.kind := by
  rw [driveEncode_encOut, Memory.read_ofPacket, ← lowNibble_eq_extract, Packet.byte, assemblePacket, placeBytes_b0,
    combine_eq_append, lowNibble_append]
  rfl

/-- R180, R243: a step of the encode port that leaves `enc_ok = 1` has sent the packet of an instruction. -/
theorem step_enc_ok {s t : State} (henc : s.invoked = some .enc) (hstep : step s = .next t) (hok : t.encOut.ok = true) :
    ∃ i : Instr, t = driveEncode (assemblePacket i.event (raw i.message)) s := by
  rcases step_cases s with ⟨hport, -⟩ | ⟨i, -, -, hsent⟩ | ⟨-, -, herror⟩ | ⟨_, hport, -⟩ | ⟨_, hport, -⟩ | ⟨hport, -⟩ |
    ⟨hport, -⟩ | ⟨hport, -⟩
  case inr.inl =>
    rw [hsent] at hstep
    cases hstep
    exact ⟨i, rfl⟩
  case inr.inr.inl =>
    rw [herror] at hstep
    cases hstep
    simp at hok
  all_goals exact absurd (henc.symm.trans hport) (by decide)

/-! ### The obligations -/

/-- Settles O23: a packet that is sent carries a kind's CIN (`step_enc_ok`, `sent_cin`), which has a category; a CIN without
one is rejected by the stub or by the classifier. -/
theorem cinValuesNeverProduced : Obligations.CinValuesNeverProduced := by
  refine ⟨cinOf_has_category, fun s t henc hstep hok => ?sent, fun c p hcin => ?received⟩
  case sent =>
    obtain ⟨i, rfl⟩ := step_enc_ok henc hstep hok
    rw [sent_cin]
    exact cinOf_has_category i.kind
  case received =>
    cases hstub : c.decodeStub with
    | true => exact ⟨.stub, decodePacket_stub hstub⟩
    | false =>
      rw [← lowNibble_eq_extract] at hcin
      exact ⟨.cin, decodePacket_no_category hstub hcin⟩

/-- Settles O21: the table is the definition of `cinOf` beside the kind codes, and what is sent carries it (`sent_cin`). -/
theorem cinTableByKind : Obligations.CinTableByKind :=
  ⟨rfl, fun s i henc => ⟨_, exec_enc i s henc, sent_cin i s⟩⟩

end Sys2Proof
end

section
/-! PROOFS of the family 43_packet_encode: what the encode port sends (R180 to R185). An invocation whose kind code is
defined sends the packet of the message its inputs spell; that message reads the fields of its kind only, and the packet
holds exactly four bytes, those of the payload's shape and 0x00 elsewhere. -/

namespace Sys2Proof

open Machine

/-! ### The instruction that encode-port inputs spell (R64, R65, R180) -/

/-- R180: inputs with the code of a kind spell that kind's message, from their descriptor fields. -/
theorem decodeEncIn_of_kind_eq_code {e : EncIn} {k : Kind} (h : e.kind = k.code) :
    decodeEncIn e = some (.ofEvent e.cable (messageOf k e.chan e.d1 e.d2)) := by
  rw [decodeEncIn, h, Kind.ofCode_code]

theorem exists_kind_of_definedKind {c : KindCode} (h : definedKind c = true) : ∃ k : Kind, k.code = c := by
  rw [← ofCode_isSome] at h
  obtain ⟨k, hk⟩ := Option.isSome_iff_exists.mp h
  exact ⟨k, Kind.code_of_ofCode hk⟩

/-- R185: a message depends on the descriptor fields its kind uses, and on no other. -/
theorem messageOf_congr {k : Kind} {ch ch' : Channel} {a a' b b' : U7} (hch : k.isChannelVoice = true → ch = ch')
    (ha : 1 ≤ k.ndata → a = a') (hb : k.ndata = 2 → b = b') : messageOf k ch a b = messageOf k ch' a' b' := by
  cases k with
  | noteOff | noteOn | polyKeyPressure | controlChange | pitchBend => rw [hch rfl, ha (by decide), hb rfl]
  | programChange | channelPressure => simp only [messageOf, hch rfl, ha (by decide)]
  | songPosition => simp only [messageOf, ha (by decide), hb rfl]
  | mtcQuarterFrame | songSelect => simp only [messageOf, ha (by decide)]
  | _ => rfl

/-! ### What an invocation of the encode port sends -/

/-- R180: inputs that spell an instruction send its packet. -/
theorem step_enc_sends {s : State} {i : Instr} (h : s.invoked = some .enc) (hi : decodeEncIn s.encIn = some i) :
    step s = .next (driveEncode (encode i) s) := by
  simp [step, h, fetchEncode, hi, runFetched, exec_enc i s h, assemblePacket_eq_encode]

/-! ### The bytes of a packet that is sent (R181, R182, R183) -/

theorem sent_byte (p : Packet) (s : State) (a : Fin 4) : (driveEncode p s).encOut.pkt.read a = p.byte a := by
  rw [driveEncode_encOut, Memory.read_ofPacket]

/-- R181: the Raw pair goes out behind the header of cable and CIN. -/
theorem assemblePacket_eq_placeBytes (i : Instr) :
    assemblePacket i.event (raw i.message) = placeBytes (combine i.cable (cinOf i.kind)) (raw i.message) := rfl

theorem placeBytes_empty {header : Byte} {r : Raw} (h : r.payload = .empty) :
    placeBytes header r = ⟨header, r.status, 0x00#8, 0x00#8⟩ := by
  simp [placeBytes, h]

theorem placeBytes_singleByte {header : Byte} {r : Raw} {b : U7} (h : r.payload = .singleByte b) :
    placeBytes header r = ⟨header, r.status, b.setWidth 8, 0x00#8⟩ := by
  simp [placeBytes, h, zext8]

theorem placeBytes_doubleByte {header : Byte} {r : Raw} {b1 b2 : U7} (h : r.payload = .doubleByte b1 b2) :
    placeBytes header r = ⟨header, r.status, b1.setWidth 8, b2.setWidth 8⟩ := by
  simp [placeBytes, h, zext8]

/-- R63: 0x00 in the data bytes that an instruction's kind does not use. -/
theorem encode_unused_bytes_zero (i : Instr) :
    (i.kind.ndata = 0 → (encode i).b2 = 0x00#8) ∧ (i.kind.ndata ≤ 1 → (encode i).b3 = 0x00#8) := by
  have hlength : (raw i.message).payload.length = i.kind.ndata := raw_payload_length i.message
  have hpad := placeBytes_padRejected (combine i.cable (cinOf i.kind)) (raw i.message)
  rw [hlength, ← assemblePacket_eq_placeBytes, assemblePacket_eq_encode] at hpad
  simpa [padRejected] using hpad

/-- R40: a canonical packet lists no address but 0 to 3. -/
theorem address_lt_four_of_wfFrom {m : Memory} {lo : Nat} (h : wfFrom lo m = true) : ∀ x ∈ m, x.1 < 4 := by
  induction m generalizing lo with
  | nil => simp
  | cons c m ih =>
    simp only [wfFrom, Bool.and_eq_true, decide_eq_true_eq] at h
    obtain ⟨⟨⟨-, hc⟩, -⟩, hm⟩ := h
    exact List.forall_mem_cons.mpr ⟨hc, ih hm⟩

/-! ### The obligations -/

/-- Settles O25: the instruction sends its header and Raw pair placed by payload shape, and the header is the two nibbles
side by side (`combine_eq_append`). -/
theorem headerAndBytePlacement : Obligations.HeaderAndBytePlacement := by
  intro s i h
  refine ⟨_, exec_enc i s h, ?_⟩
  simp only [sent_byte, assemblePacket_eq_placeBytes, Packet.byte]
  rw [placeBytes_b0, placeBytes_b1]
  refine ⟨rfl, ?cable, ?cin, rfl, fun hp => ?empty, fun b hp => ?single, fun b1 b2 hp => ?double⟩
  case cable => rw [← highNibble_eq_extract, combine_eq_append, highNibble_append]
  case cin => rw [← lowNibble_eq_extract, combine_eq_append, lowNibble_append]
  case empty => simp [placeBytes_empty hp]
  case single => simp [placeBytes_singleByte hp]
  case double => simp [placeBytes_doubleByte hp]

/-- Settles O27: a defined code is a kind's, so the inputs spell an instruction, and its packet goes out in canonical form. -/
theorem encodeIsTotalOnDefinedKinds : Obligations.EncodeIsTotalOnDefinedKinds := by
  intro s h hkind
  have hdef : definedKind s.encIn.kind = true := List.contains_iff_mem.mpr hkind
  obtain ⟨k, hk⟩ := exists_kind_of_definedKind hdef
  have hi := decodeEncIn_of_kind_eq_code hk.symm
  exact ⟨_, _, step_enc_sends h hi, rfl, hi, sent_byte _ s, address_lt_four_of_wfFrom (Memory.wf_ofPacket _)⟩

/-- Settles O28: both invocations spell one instruction (`messageOf_congr`), so they send one packet, whose unused bytes are
0x00 (`encode_unused_bytes_zero`). -/
theorem unusedDescriptorFieldsAreNotRead : Obligations.UnusedDescriptorFieldsAreNotRead := by
  intro s k e e' hk hk' hcable hchan h1 h2
  have hi := decodeEncIn_of_kind_eq_code hk
  have hi' := decodeEncIn_of_kind_eq_code hk'
  rw [← hcable, ← messageOf_congr hchan h1 h2] at hi'
  refine ⟨_, _, step_enc_sends (present_enc_invoked s e) hi, step_enc_sends (present_enc_invoked s e') hi', rfl, ?_⟩
  have hunused := encode_unused_bytes_zero (.ofEvent e.cable (messageOf k e.chan e.d1 e.d2))
  rw [Instr.kind_ofEvent, messageOf_kind] at hunused
  rwa [sent_byte, sent_byte]

end Sys2Proof
end

section
/-! PROOFS of the family 44_packet_decode: what the decode port answers (R200 to R210). Behind the stub and the CIN the
decoder's verdict is said once in the packet's own terms (`decodePacket_of_admits`), and one lemma reads it off the port
(`step_dec_reports`). Clearing the unused bytes of a packet (`Packet.clearUnused`) is what encode makes of a decoded packet,
so R207 and R209 are both about the packets that it leaves alone. -/

namespace Sys2Proof

open Machine

/-! ### The verdict of the decoder, by the causes of R242 -/

/-- R205, R207: a packet whose CIN admits its status byte is checked for its data bytes, then for its unused ones. -/
theorem decodePacket_of_admits {c : Params} {p : Packet} (hs : c.decodeStub = false)
    (hadm : CinAdmits (p.b0.extractLsb' 0 4) p.b1) :
    ∃ i, decodePacket c p =
      if HasDataOutOfRange p then .error .data
      else if c.padCheck = .reject ∧ ¬UnusedBytesZero p then .error .pad
      else .ok i := by
  rw [← lowNibble_eq_extract] at hadm
  obtain ⟨k, hk⟩ := exists_classify_of_admits hadm
  refine ⟨.ofEvent (highNibble p.b0) (messageOfPacket k p), ?_⟩
  simp only [decodePacket_classified hs hk, dataRejected_iff hk, padRejected_iff hk]

/-- R203: behind the stub and the CIN, the reason STATUS is that the CIN does not admit the status byte. -/
theorem decodePacket_eq_status_iff {c : Params} {p : Packet} (hs : c.decodeStub = false)
    (hcat : ¬CinHasNoCategory (p.b0.extractLsb' 0 4)) :
    decodePacket c p = .error .status ↔ ¬CinAdmits (p.b0.extractLsb' 0 4) p.b1 := by
  by_cases hadm : CinAdmits (p.b0.extractLsb' 0 4) p.b1
  · obtain ⟨i, hi⟩ := decodePacket_of_admits hs hadm
    rw [hi]
    refine iff_of_false (fun h => ?_) (not_not_intro hadm)
    split at h
    · cases h
    · split at h <;> cases h
  · refine iff_of_true ?_ hadm
    rw [← lowNibble_eq_extract] at hcat hadm
    cases hk : classify (lowNibble p.b0) p.b1 with
    | ok k =>
      obtain ⟨-, -, hadmits, -⟩ := classify_ok hk
      exact absurd hadmits hadm
    | error r =>
      obtain ⟨-, hnone⟩ | ⟨rfl, -⟩ := classify_error hk
      · exact absurd hnone hcat
      · exact decodePacket_not_classified hs hk

/-- R205: with an admitted status byte, the reason DATA is that a used data byte is out of range. -/
theorem decodePacket_eq_data_iff {c : Params} {p : Packet} (hs : c.decodeStub = false)
    (hadm : CinAdmits (p.b0.extractLsb' 0 4) p.b1) : decodePacket c p = .error .data ↔ HasDataOutOfRange p := by
  obtain ⟨i, hi⟩ := decodePacket_of_admits hs hadm
  rw [hi]
  by_cases hdata : HasDataOutOfRange p
  · exact iff_of_true (if_pos hdata) hdata
  · refine iff_of_false (fun h => ?_) hdata
    rw [if_neg hdata] at h
    split at h <;> cases h

/-- R207: the data check of a packet that has an unused byte looks at byte 2 alone. -/
theorem hasDataOutOfRange_iff_of_unused {p : Packet} (h : ¬UnusedBytesZero p) :
    HasDataOutOfRange p ↔ 0x80 ≤ p.b2.toNat ∧ 1 ≤ cinDataBytes (p.b0.extractLsb' 0 4) := by
  have hn : cinDataBytes (p.b0.extractLsb' 0 4) ≠ 2 := fun hn => h ⟨by simp [hn], by simp [hn]⟩
  simp [HasDataOutOfRange, hn, and_comm]

/-! ### The step of the decode port -/

theorem step_dec_delivers {s : State} {i : Instr} (h : s.invoked = some .dec)
    (hi : decodePacket s.params s.decIn.packet = .ok i) :
    step s = .next (driveDecode i.event (raw i.message).payload s) := by
  simp [step, h, fetchDecode, hi, runFetched, exec_dec i s h]

theorem step_dec_rejects {s : State} {r : Reason} (h : s.invoked = some .dec)
    (hr : decodePacket s.params s.decIn.packet = .error r) : step s = .next (raiseError (.invalidPacket r) s) := by
  simp [step, h, fetchDecode, hr, runFetched]

theorem Reason.code_inj {r r' : Reason} : r.code = r'.code ↔ r = r' :=
  ⟨fun h => Option.some.inj (by rw [← Reason.ofCode_code r, h, Reason.ofCode_code]), congrArg _⟩

theorem Reason.code_ne_none (r : Reason) : r.code ≠ 0#3 := by cases r <;> decide

/-- R242: the port shows the code of a reason exactly when the decoder rejects the packet for it, and then `dec_ok = 0`. -/
theorem step_dec_reports {s : State} (h : s.invoked = some .dec) :
    ∃ t, step s = .next t ∧ OnlyPortMoved .dec s t ∧ ∀ r : Reason,
      (t.decOut.reason = r.code ↔ decodePacket s.params s.decIn.packet = .error r) ∧
      (decodePacket s.params s.decIn.packet = .error r → t.decOut.ok = false) := by
  cases hd : decodePacket s.params s.decIn.packet with
  | ok i =>
    refine ⟨_, step_dec_delivers h hd, driveDecode_moves_only_dec _ _ s, fun r => ?_⟩
    simp [(Reason.code_ne_none r).symm]
  | error r' =>
    refine ⟨_, step_dec_rejects h hd, raiseError_moves_only_dec r' s, fun r => ?_⟩
    simp [Reason.code_inj]

/-! ### The fields of a decoded message (R65, R206) -/

theorem messageOf_chan? (k : Kind) (ch : Channel) (a b : U7) :
    (messageOf k ch a b).chan? = if k.isChannelVoice then some ch else none := by
  cases k <;> rfl

theorem raw_messageOf_d1? (k : Kind) (ch : Channel) (a b : U7) :
    (raw (messageOf k ch a b)).payload.d1? = if 1 ≤ k.ndata then some a else none := by
  cases k <;> rfl

theorem raw_messageOf_d2? (k : Kind) (ch : Channel) (a b : U7) :
    (raw (messageOf k ch a b)).payload.d2? = if k.ndata = 2 then some b else none := by
  cases k <;> rfl

/-- R200, R206: the cable and the message of a decoded packet, from its bytes. -/
theorem decodePacket_fields {c : Params} {p : Packet} {i : Instr} (h : decodePacket c p = .ok i) :
    i.cable = p.b0.extractLsb' 4 4 ∧
      i.message = messageOf i.kind (p.b1.extractLsb' 0 4) (p.b2.extractLsb' 0 7) (p.b3.extractLsb' 0 7) := by
  obtain ⟨k, -, -, -, -, rfl⟩ := decodePacket_ok h
  simp only [Instr.cable_ofEvent, Instr.message_ofEvent, Instr.kind_ofEvent, messageOfPacket, messageOf_kind,
    highNibble_eq_extract, lowNibble_eq_extract, low7_eq_extract, and_self]

/-! ### The packet without its unused bytes (R63, R207) -/

/-- R63: the packet with 0x00 in the data bytes that its CIN leaves unused. -/
def Packet.clearUnused (p : Packet) : Packet where
  b0 := p.b0
  b1 := p.b1
  b2 := if 1 ≤ cinDataBytes (p.b0.extractLsb' 0 4) then p.b2 else 0x00#8
  b3 := if cinDataBytes (p.b0.extractLsb' 0 4) = 2 then p.b3 else 0x00#8

theorem cinDataBytes_le_two (cin : CodeIndexNumber) : cinDataBytes cin ≤ 2 := by
  revert cin
  decide

theorem Packet.clearUnused_eq_iff (p : Packet) : p.clearUnused = p ↔ UnusedBytesZero p := by
  have hunused : ¬cinDataBytes (p.b0.extractLsb' 0 4) = 2 ↔ cinDataBytes (p.b0.extractLsb' 0 4) ≤ 1 := by
    have := cinDataBytes_le_two (p.b0.extractLsb' 0 4)
    omega
  obtain ⟨b0, b1, b2, b3⟩ := p
  rw [Packet.clearUnused, Packet.mk.injEq]
  simp only [ite_eq_left_iff, Nat.not_le, Nat.lt_one_iff, hunused, true_and, eq_comm (a := 0x00#8), UnusedBytesZero]

/-- R207: packets that agree on byte 0, byte 1 and the used data bytes are one packet, their unused bytes cleared. -/
theorem Packet.clearUnused_congr {p q : Packet} (h0 : p.b0 = q.b0) (h1 : p.b1 = q.b1)
    (h2 : 1 ≤ cinDataBytes (p.b0.extractLsb' 0 4) → p.b2 = q.b2)
    (h3 : cinDataBytes (p.b0.extractLsb' 0 4) = 2 → p.b3 = q.b3) : p.clearUnused = q.clearUnused := by
  rw [Packet.clearUnused, Packet.clearUnused, ← h0, h1, Packet.mk.injEq]
  exact ⟨rfl, rfl, ite_congr rfl h2 fun _ => rfl, ite_congr rfl h3 fun _ => rfl⟩

/-- R207: without the check of unused bytes, decode does not see what they hold. -/
theorem decodePacket_clearUnused {c : Params} (hc : c.padCheck = .ignore) (p : Packet) :
    decodePacket c p.clearUnused = decodePacket c p := by
  cases hs : c.decodeStub with
  | true => rw [decodePacket_stub hs, decodePacket_stub hs]
  | false =>
    cases hk : classify (lowNibble p.b0) p.b1 with
    | error r => rw [decodePacket_not_classified hs hk, decodePacket_not_classified (p := p.clearUnused) hs hk]
    | ok k =>
      obtain ⟨-, hn, -⟩ := classify_ok hk
      rw [lowNibble_eq_extract] at hn
      have hdata : dataRejected k.ndata p.clearUnused.b2 p.clearUnused.b3 = dataRejected k.ndata p.b2 p.b3 := by
        rcases k.ndata_cases with h | h | h <;> simp [dataRejected, Packet.clearUnused, ← hn, h]
      have hmessage : messageOfPacket k p.clearUnused = messageOfPacket k p :=
        messageOf_congr (fun _ => rfl) (fun h => by simp [Packet.clearUnused, ← hn, h])
          (fun h => by simp [Packet.clearUnused, ← hn, h])
      rw [decodePacket_classified hs hk, decodePacket_classified (p := p.clearUnused) hs hk, hdata, hmessage]
      simp [hc, Packet.clearUnused]

/-! ### Decode and encode are inverse (R209) -/

/-- R61 to R63: the packet of every kind's message. -/
theorem encode_messageOf (cn : CableNumber) (k : Kind) (ch : Channel) (a b : U7) :
    encode (.ofEvent cn (messageOf k ch a b)) =
      ⟨cn ++ cinOf k, k.statusByte ch, if 1 ≤ k.ndata then 0#1 ++ a else 0x00#8,
        if k.ndata = 2 then 0#1 ++ b else 0x00#8⟩ := by
  cases k <;> rfl

/-- Every instruction is that of its cable, its kind and some descriptor fields. -/
theorem Instr.exists_messageOf (i : Instr) : ∃ ch a b, i = .ofEvent i.cable (messageOf i.kind ch a b) := by
  refine ⟨i.message.chan?.getD 0#4, (raw i.message).payload.d1?.getD 0#7, (raw i.message).payload.d2?.getD 0#7, ?_⟩
  rw [Instr.kind, messageOf_delivered]
  exact i.ofEvent_event.symm

theorem highNibble_encode_b0 (i : Instr) : highNibble (encode i).b0 = i.cable := by
  obtain ⟨ch, a, b, hi⟩ := i.exists_messageOf
  rw [hi, encode_messageOf, highNibble_append, Instr.cable_ofEvent]

/-- R209: the fields that decode reads in the packet of an instruction are those of its message. -/
theorem messageOfPacket_encode (i : Instr) : messageOfPacket i.kind (encode i) = i.message := by
  obtain ⟨ch, a, b, hi⟩ := i.exists_messageOf
  rw [hi, Instr.kind_ofEvent, messageOf_kind, Instr.message_ofEvent, encode_messageOf]
  refine messageOf_congr (fun hcv => ?_) (fun h1 => ?_) (fun h2 => ?_)
  · rw [Kind.statusByte_of_channelVoice hcv, lowNibble_append]
  · rw [if_pos h1, low7_append]
  · rw [if_pos h2, low7_append]

/-- R209, first law: a packet that encode makes decodes to its instruction, whatever `PAD_CHECK` is. The packet is of its
kind's row of R69, so it decodes to that kind, and its fields are the instruction's. -/
theorem decodePacket_encode {c : Params} (hs : c.decodeStub = false) (i : Instr) :
    decodePacket c (encode i) = .ok i := by
  have hrow := assemblePacket_matches_row i c.padCheck
  rw [assemblePacket_eq_encode] at hrow
  obtain ⟨j, hj, hkind⟩ := (decodes_to_kind_iff_matches_row hs (encode i) i.kind).mpr hrow
  obtain ⟨k, -, -, -, -, rfl⟩ := decodePacket_ok hj
  rw [Instr.kind_ofEvent, messageOfPacket, messageOf_kind] at hkind
  rw [hj, hkind, messageOfPacket_encode, highNibble_encode_b0]
  exact congrArg Except.ok i.ofEvent_event

/-- R209, second law: encode gives a decoded packet back, its unused bytes cleared. -/
theorem encode_of_decodePacket {c : Params} {p : Packet} {i : Instr} (h : decodePacket c p = .ok i) :
    encode i = p.clearUnused := by
  obtain ⟨k, -, hk, hdata, -, rfl⟩ := decodePacket_ok h
  obtain ⟨hcin, hn, -⟩ := classify_ok hk
  obtain ⟨-, hstatus⟩ := classify_eq_ok_iff.mp hk
  rw [lowNibble_eq_extract] at hn
  simp only [dataRejected, Bool.or_eq_false_iff, Bool.and_eq_false_imp, decide_eq_true_eq, beq_iff_eq] at hdata
  obtain ⟨h2, h3⟩ := hdata
  rw [messageOfPacket, encode_messageOf, hcin, append_nibbles, hstatus, Packet.clearUnused, ← hn, Packet.mk.injEq]
  exact ⟨rfl, rfl, ite_congr rfl (fun hu => append_low7 _ (h2 hu)) fun _ => rfl,
    ite_congr rfl (fun hu => append_low7 _ (h3 hu)) fun _ => rfl⟩

/-- R207: a packet that decodes under Reject has 0x00 in its unused bytes. -/
theorem unusedBytesZero_of_decodePacket {c : Params} {p : Packet} {i : Instr} (h : decodePacket c p = .ok i)
    (hc : c.padCheck = .reject) : UnusedBytesZero p := by
  obtain ⟨k, -, hk, -, hpad, -⟩ := decodePacket_ok h
  refine Decidable.of_not_not fun hu => ?_
  rw [(padRejected_iff hk).mpr hu] at hpad
  exact absurd (hpad hc) (by decide)

/-- R65, R66: the encode port's inputs for an instruction spell that instruction. -/
theorem decodeEncIn_encodeEncIn (i : Instr) : decodeEncIn (encodeEncIn i) = some i := by cases i <;> rfl

/-- ENC of an instruction, then DEC of the packet it left on the port: the result is the decode port's pure function of the
instruction's packet. -/
theorem invoke_enc_then_dec (s : State) (i : Instr) :
    ∃ t u, invoke s (.enc (encodeEncIn i)) = .next t ∧ invoke t (.dec t.encOut.pkt.packet) = .next u ∧
      u.result = some (portFunction s.params (.dec (encode i))) := by
  have hsent : invoke s (.enc (encodeEncIn i)) = .next (driveEncode (encode i) (s.present (.enc (encodeEncIn i)))) :=
    step_enc_sends (present_enc_invoked s _) (decodeEncIn_encodeEncIn i)
  obtain ⟨u, hdec, -, hres⟩ :=
    invoke_returns_portFunction (driveEncode (encode i) (s.present (.enc (encodeEncIn i)))) (.dec (encode i))
  rw [driveEncode_params, present_params] at hres
  exact ⟨_, u, hsent, by rwa [driveEncode_encOut, Memory.packet_ofPacket], hres⟩

/-! ### The obligations -/

/-- Settles O5: through the ports the first law is `decodePacket_encode`, and under the stub the packet is rejected
(`decodePacket_stub`); encode gives back a decoded packet with its unused bytes cleared (`encode_of_decodePacket`). -/
theorem roundTripLaws : Obligations.RoundTripLaws := by
  refine ⟨fun s i hs => ?encodeFirst, fun c b i hi => ?decodeFirst, fun s i hs => ?stub⟩
  case encodeFirst =>
    obtain ⟨t, u, henc, hdec, hres⟩ := invoke_enc_then_dec s i
    refine ⟨t, u, henc, hdec, ?_⟩
    rw [hres, portFunction, decodePacket_encode hs]
  case decodeFirst =>
    rw [encode_of_decodePacket hi, Packet.clearUnused_eq_iff]
    exact ⟨Iff.rfl, unusedBytesZero_of_decodePacket hi⟩
  case stub =>
    obtain ⟨t, u, henc, hdec, hres⟩ := invoke_enc_then_dec s i
    refine ⟨t, u, henc, hdec, ?_⟩
    rw [hres, portFunction, decodePacket_stub hs]
    simp

/-- Settles O30: the port reports STATUS when the decoder does (`decodePacket_eq_status_iff`). -/
theorem inconsistentStatusIsRejected : Obligations.InconsistentStatusIsRejected := by
  intro s h hs hcat
  obtain ⟨t, hstep, hmoved, hreports⟩ := step_dec_reports h
  obtain ⟨hreason, hok⟩ := hreports .status
  have hiff := decodePacket_eq_status_iff (p := s.decIn.packet) hs hcat
  exact ⟨t, hstep, hmoved, fun hn => hok (hiff.mpr hn), hreason.trans hiff⟩

/-- Settles O32: the outputs are the descriptor fields of the message that the packet's bytes give (`decodePacket_ok`), and
they spell that message (`messageOf_delivered`). -/
theorem successfulDecodeOutputs : Obligations.SuccessfulDecodeOutputs := by
  intro s i h hi
  obtain ⟨hcable, hmessage⟩ := decodePacket_fields hi
  refine ⟨_, step_dec_delivers h hi, rfl, rfl, hcable, rfl, fun hcv => ?chan, fun h1 => ?d1, fun h2 => ?d2, ?event,
    driveDecode_moves_only_dec _ _ s⟩
  case chan =>
    rw [driveDecode_decOut_chan, ← Instr.message, hmessage, messageOf_chan?, if_pos hcv]
    rfl
  case d1 =>
    rw [driveDecode_decOut_d1, hmessage, raw_messageOf_d1?, if_pos h1]
    rfl
  case d2 =>
    rw [driveDecode_decOut_d2, hmessage, raw_messageOf_d2?, if_pos h2]
    rfl
  case event =>
    rw [driveDecode_decOut_chan, driveDecode_decOut_d1, driveDecode_decOut_d2, ← Instr.message, Instr.kind,
      messageOf_delivered]
    exact congrArg (UsbMidiEventPacket.mk · i.message) hcable

/-- Settles O33: under Ignore both packets decode like the one they are without their unused bytes
(`decodePacket_clearUnused`); under Reject the verdict is `decodePacket_of_admits`, whose data check sees byte 2 alone. -/
theorem unusedBytesFollowPadCheck : Obligations.UnusedBytesFollowPadCheck := by
  refine ⟨fun c p q hc h0 h1 h2 h3 => ?ignore, fun c p hs hc hadm hunused => ?reject⟩
  case ignore =>
    rw [← decodePacket_clearUnused hc p, Packet.clearUnused_congr h0 h1 h2 h3, decodePacket_clearUnused hc q]
  case reject =>
    obtain ⟨i, hi⟩ := decodePacket_of_admits hs hadm
    rw [hi, if_pos (⟨hc, hunused⟩ : c.padCheck = .reject ∧ ¬UnusedBytesZero p), apply_ite Except.error]
    exact ite_congr (propext (hasDataOutOfRange_iff_of_unused hunused)) (fun _ => rfl) fun _ => rfl

/-- Settles O34: the port reports DATA when the decoder does (`decodePacket_eq_data_iff`). -/
theorem dataOutOfRangeIsRejected : Obligations.DataOutOfRangeIsRejected := by
  intro s h hs hadm
  obtain ⟨t, hstep, hmoved, hreports⟩ := step_dec_reports h
  obtain ⟨hreason, hok⟩ := hreports .data
  have hiff := decodePacket_eq_data_iff (p := s.decIn.packet) hs hadm
  exact ⟨t, hstep, hmoved, hreason.trans hiff, fun hd => hok (hiff.mpr hd)⟩

/-- Settles O36: the decoder answers a message or a reason and the port shows it; later results depend on the parameters
alone (`transcriptIsThePurePortFunctions`), which a decode keeps. -/
theorem decodeAlwaysAnswers : Obligations.DecodeAlwaysAnswers := by
  intro s p
  obtain ⟨t, hinv, hparams, hres⟩ := invoke_returns_portFunction s (.dec p)
  refine ⟨t, hinv, ?answer, fun rest => ?later⟩
  case answer =>
    have hstep : step (s.present (.dec p)) = .next t := hinv
    cases hd : decodePacket s.params p with
    | ok i =>
      rw [step_dec_delivers (present_dec_invoked s p) (i := i) (by simpa using hd)] at hstep
      cases hstep
      exact .inl ⟨rfl, i.event, by rw [hres, portFunction, hd]⟩
    | error r =>
      rw [step_dec_rejects (present_dec_invoked s p) (r := r) (by simpa using hd)] at hstep
      cases hstep
      exact .inr ⟨rfl, r, by rw [hres, portFunction, hd]⟩
  case later => rw [transcriptIsThePurePortFunctions t, transcriptIsThePurePortFunctions s, hparams]

/-- Settles O29: the classifier rejects such a CIN (`decodePacket_no_category`), whatever the other bytes hold. -/
theorem cinWithNoCategoryIsRejected : Obligations.CinWithNoCategoryIsRejected := by
  intro s h hs hcin
  rw [← lowNibble_eq_extract] at hcin
  exact ⟨_, step_dec_rejects h (decodePacket_no_category (p := s.decIn.packet) hs hcin), rfl, rfl,
    raiseError_moves_only_dec .cin s⟩

/-- Settles O31: the stub comes before every check (`decodePacket_stub`). -/
theorem stubRejectsEveryPacket : Obligations.StubRejectsEveryPacket := fun s h hs =>
  ⟨_, step_dec_rejects h (decodePacket_stub hs), rfl, rfl, raiseError_moves_only_dec .stub s⟩

end Sys2Proof
end

section
/-! PROOFS of the family 60_exceptions: which invocations report an error, and which error (R240 to R247). One lemma per port
says when its indicator is 0; on the decode port the indicator code is the decoder's verdict, whose order of causes is R247. -/

namespace Sys2Proof

open Machine

/-! ### InvalidKind on the encode port (R243) -/

theorem ofCode_eq_none_iff_undefined (c : KindCode) : Kind.ofCode c = none ↔ c ∈ undefinedKinds := by
  rw [← Option.not_isSome_iff_eq_none, ofCode_isSome, definedKind_or_undefined]
  simp

theorem decodeEncIn_of_undefined {e : EncIn} (h : Kind.ofCode e.kind = none) : decodeEncIn e = none := by
  rw [decodeEncIn, h]

/-- R243: `enc_ok = 0` exactly when the kind code names no kind; either way only the encode port's outputs move. -/
theorem step_enc_not_ok_iff {s : State} (h : s.invoked = some .enc) :
    ∃ t, step s = .next t ∧ OnlyPortMoved .enc s t ∧ (t.encOut.ok = false ↔ Kind.ofCode s.encIn.kind = none) := by
  cases hk : Kind.ofCode s.encIn.kind with
  | some k =>
    have hi := decodeEncIn_of_kind_eq_code (Kind.code_of_ofCode hk).symm
    exact ⟨_, step_enc_sends h hi, driveEncode_moves_only_enc _ s, by simp⟩
  | none =>
    have hstep : step s = .next (raiseError (.invalidKind s.encIn.kind) s) := by
      simp [step, h, fetchEncode, decodeEncIn_of_undefined hk, runFetched]
    exact ⟨_, hstep, raiseError_moves_only_enc _ s, by simp⟩

/-! ### OutOfRange on the Make port (R241) -/

theorem step_nmake_not_ok_iff {s : State} (h : s.invoked = some .nmake) :
    ∃ t, step s = .next t ∧ (t.nmOut.ok = false ↔ 15 < s.nmIn.toNat) := by
  by_cases hv : s.nmIn.toNat ≤ 15
  · exact ⟨_, step_nmake_of_le s h hv, by simp [hv]⟩
  · have hgt : 15 < s.nmIn.toNat := Nat.lt_of_not_le hv
    exact ⟨_, step_nmake_of_gt s h hgt, by simp [hgt]⟩

/-! ### InvalidPacket on the decode port (R242, R247) -/

/-- R242: the `dec_reason` code of the decoder's verdict on a packet. -/
def verdictCode : Except Reason Instr → BitVec 3
  | .ok _ => reasonNone
  | .error r => r.code

/-- R242: the decode port shows the code of the decoder's verdict, and `dec_ok = 1` exactly with the code 0. -/
theorem step_dec_shows_verdict {s : State} (h : s.invoked = some .dec) :
    ∃ t, step s = .next t ∧ t.decOut.reason = verdictCode (decodePacket s.params s.decIn.packet) ∧
      (t.decOut.ok = true ↔ t.decOut.reason = 0#3) := by
  cases hd : decodePacket s.params s.decIn.packet with
  | ok i => exact ⟨_, step_dec_delivers h hd, rfl, iff_of_true rfl rfl⟩
  | error r =>
    exact ⟨_, step_dec_rejects h hd, rfl, iff_of_false Bool.false_ne_true (Reason.code_ne_none r)⟩

/-- R247: the decoder's verdict is the first cause present, each clause by the lemma that says what the decoder answers
there. -/
theorem firstCause_verdict (c : Params) (p : Packet) : FirstCause c p (verdictCode (decodePacket c p)) where
  stub hs := by rw [decodePacket_stub hs]; rfl
  cin hs hcin := by
    rw [← lowNibble_eq_extract] at hcin
    rw [decodePacket_no_category hs hcin]
    rfl
  status hs hcat hadm := by rw [(decodePacket_eq_status_iff hs hcat).mpr hadm]; rfl
  data hs hadm hdata := by rw [(decodePacket_eq_data_iff hs hadm).mpr hdata]; rfl
  pad hs hadm hdata hreject hunused := by
    obtain ⟨i, hi⟩ := decodePacket_of_admits hs hadm
    rw [hi, if_neg hdata, if_pos ⟨hreject, hunused⟩]
    rfl
  none hs hadm hdata hpad := by
    obtain ⟨i, hi⟩ := decodePacket_of_admits hs hadm
    have hnoPad : ¬(c.padCheck = .reject ∧ ¬UnusedBytesZero p) := by
      rintro ⟨hreject, hunused⟩
      rcases hpad with hignore | hzero
      · exact absurd (hignore.symm.trans hreject) (by decide)
      · exact hunused hzero
    rw [hi, if_neg hdata, if_neg hnoPad]
    rfl

/-! ### Invocations are independent (R20, R247) -/

/-- An invocation leaves the results of every later list of invocations as they would have been without it. -/
theorem invoke_keeps_transcripts (s : State) (inv : Invocation) :
    ∃ t, invoke s inv = .next t ∧ ∀ rest, transcript t rest = transcript s rest := by
  obtain ⟨t, hinv, hparams, -⟩ := invoke_returns_portFunction s inv
  refine ⟨t, hinv, fun rest => ?_⟩
  rw [transcriptIsThePurePortFunctions t, transcriptIsThePurePortFunctions s, hparams]

/-! ### The obligations -/

/-- Settles O26: the port reports InvalidKind when the code names no kind (`step_enc_not_ok_iff`), and those codes are the
list of R70 (`ofCode_eq_none_iff_undefined`). -/
theorem invalidKindExactlyOnUndefinedCodes : Obligations.InvalidKindExactlyOnUndefinedCodes := by
  intro s h
  obtain ⟨t, hstep, hmoved, hok⟩ := step_enc_not_ok_iff h
  exact ⟨t, hstep, hmoved, hok.trans (ofCode_eq_none_iff_undefined s.encIn.kind)⟩

/-- Settles O35: the decode port shows the decoder's verdict, which is the first cause (`firstCause_verdict`); the other
ports by their own indicator's lemma, and independence by `invoke_keeps_transcripts`. -/
theorem firstRejectionCauseIsReported : Obligations.FirstRejectionCauseIsReported := by
  refine ⟨fun s h => ?decode, fun s h => ?encode, fun s h => step_nmake_not_ok_iff h, fun s inv inv' => ?independent⟩
  case decode =>
    obtain ⟨t, hstep, hreason, hok⟩ := step_dec_shows_verdict h
    exact ⟨t, hstep, hreason ▸ firstCause_verdict s.params s.decIn.packet, hok⟩
  case encode =>
    obtain ⟨t, hstep, -, hok⟩ := step_enc_not_ok_iff h
    exact ⟨t, hstep, hok⟩
  case independent =>
    obtain ⟨t, hinv, hkeeps⟩ := invoke_keeps_transcripts s inv
    exact ⟨t, hinv, hkeeps [inv']⟩

end Sys2Proof
end

section
/-! PROOFS of the family other, first part: the ports (R20, R31, R32, R48, R244). One lemma says that a step answers, moves
its own port only and returns the port's pure function of the inputs it holds; one lemma per message port says which next
state its step answers. The two invariants follow: the invoked port's outputs are made anew, every other port's stay. -/

namespace Sys2Proof.Machine

/-! ### A step of any port: its frame and its result -/

/-- R48: the invocation whose inputs the port holds. -/
def State.held (s : State) : Port → Invocation
  | .enc => .enc s.encIn
  | .dec => .dec s.decIn.packet
  | .nsplit => .nsplit s.nsIn
  | .ncomb => .ncomb s.ncIn.high s.ncIn.low
  | .nmake => .nmake s.nmIn

theorem step_returns_held {s : State} {p : Port} (h : s.invoked = some p) :
    StepReturns p s (portFunction s.params (s.held p)) := by
  cases p with
  | enc => exact step_enc_returns s h
  | dec => exact step_dec_returns s h
  | nsplit => exact step_nsplit_returns s h
  | ncomb => exact step_ncomb_returns s h
  | nmake => exact step_nmake_returns s h

/-- R244: a step moves the outputs of the port in use and nothing else. -/
theorem step_moves_only {s t : State} {p : Port} (h : s.invoked = some p) (hstep : step s = .next t) :
    OnlyPortMoved p s t := by
  obtain ⟨t', hstep', hmoved, -⟩ := step_returns_held h
  cases hstep.symm.trans hstep'
  exact hmoved

theorem held_of_moved {s t : State} {p : Port} (h : OnlyPortMoved p s t) (q : Port) : t.held q = s.held q := by
  cases q with
  | enc => exact congrArg _ h.encIn
  | dec => exact congrArg (Invocation.dec ·.packet) h.decIn
  | nsplit => exact congrArg _ h.nsIn
  | ncomb => exact congrArg (fun n => Invocation.ncomb n.high n.low) h.ncIn
  | nmake => exact congrArg _ h.nmIn

/-- Log 1: with no invocation presented a step changes nothing. -/
theorem step_none {s : State} (h : s.invoked = none) : step s = .next s := by
  simp [step, h]

/-- A step that changes anything is an invocation of some port. -/
theorem eq_or_invoked_of_step {s t : State} (hstep : step s = .next t) : t = s ∨ ∃ p, s.invoked = some p := by
  cases h : s.invoked with
  | none =>
    cases hstep.symm.trans (step_none h)
    exact .inl rfl
  | some p => exact .inr ⟨p, rfl⟩

/-- R180, R243: the two next states of the encode port. -/
theorem step_enc_cases {s t : State} (h : s.invoked = some .enc) (hstep : step s = .next t) :
    (∃ i, decodeEncIn s.encIn = some i ∧ t = driveEncode (encode i) s) ∨
      (decodeEncIn s.encIn = none ∧ t = raiseError (.invalidKind s.encIn.kind) s) := by
  cases hi : decodeEncIn s.encIn with
  | some i =>
    rw [step_enc_sends h hi] at hstep
    cases hstep
    exact .inl ⟨i, rfl, rfl⟩
  | none =>
    have herror : step s = .next (raiseError (.invalidKind s.encIn.kind) s) := by
      simp [step, h, fetchEncode, hi, runFetched]
    rw [herror] at hstep
    cases hstep
    exact .inr ⟨rfl, rfl⟩

/-- R200, R242: the two next states of the decode port. -/
theorem step_dec_cases {s t : State} (h : s.invoked = some .dec) (hstep : step s = .next t) :
    (∃ i, decodePacket s.params s.decIn.packet = .ok i ∧ t = driveDecode i.event (raw i.message).payload s) ∨
      (∃ r, decodePacket s.params s.decIn.packet = .error r ∧ t = raiseError (.invalidPacket r) s) := by
  cases hd : decodePacket s.params s.decIn.packet with
  | ok i =>
    rw [step_dec_delivers h hd] at hstep
    cases hstep
    exact .inl ⟨i, rfl, rfl⟩
  | error r =>
    rw [step_dec_rejects h hd] at hstep
    cases hstep
    exact .inr ⟨r, rfl, rfl⟩

/-! ### Canonical packets (R40, log 3) -/

/-- The encode port writes its packet whole, also when the packet is a free value. -/
theorem step_enc_pkt_wf {s t : State} (h : s.invoked = some .enc) (hstep : step s = .next t) :
    t.encOut.pkt.wf = true := by
  rcases step_enc_cases h hstep with ⟨i, -, rfl⟩ | ⟨-, rfl⟩
  · rw [driveEncode_encOut, Memory.wf_ofPacket]
  · rw [raiseError_invalidKind_pkt, Memory.wf_ofPacket]

theorem packetsCanonical_step {s t : State} {p : Port} (h : s.invoked = some p) (hs : PacketsCanonical s)
    (hstep : step s = .next t) : PacketsCanonical t := by
  have hmoved := step_moves_only h hstep
  obtain ⟨henc, hdec⟩ := hs
  refine ⟨?_, by rwa [hmoved.decIn]⟩
  by_cases hp : p = .enc
  · subst hp
    exact step_enc_pkt_wf h hstep
  · rwa [hmoved.encOut hp]

theorem packetsCanonical_present {s : State} (h : PacketsCanonical s) (inv : Invocation) :
    PacketsCanonical (s.present inv) := by
  obtain ⟨henc, hdec⟩ := h
  cases inv with
  | dec p => exact ⟨henc, Memory.wf_ofPacket p⟩
  | _ => exact ⟨henc, hdec⟩

/-! ### The outputs of each port are the functions of its inputs (R31, R36) -/

/-- The share of one port in `PortsAgree`. -/
def PortAgrees (s : State) : Port → Prop
  | .enc => EncodePortAgrees s
  | .dec => DecodePortAgrees s
  | .nsplit => s.nsOut.high ++ s.nsOut.low = s.nsIn
  | .ncomb => s.ncOut = s.ncIn.high ++ s.ncIn.low
  | .nmake => s.nmOut.ok = decide (s.nmIn.toNat ≤ 15) ∧ (s.nmOut.ok = true → s.nmOut.nib.toNat = s.nmIn.toNat)

theorem portsAgree_iff {s : State} : PortsAgree s ↔ PacketsCanonical s ∧ ∀ p, PortAgrees s p := by
  constructor
  · rintro ⟨hcanon, henc, hdec, hns, hnc, hnm⟩
    refine ⟨hcanon, fun p => ?_⟩
    cases p with
    | enc => exact henc
    | dec => exact hdec
    | nsplit => exact hns
    | ncomb => exact hnc
    | nmake => exact hnm
  · rintro ⟨hcanon, h⟩
    exact ⟨hcanon, h .enc, h .dec, h .nsplit, h .ncomb, h .nmake⟩

theorem encodePortAgrees_step {s t : State} (h : s.invoked = some .enc) (hstep : step s = .next t) :
    EncodePortAgrees t := by
  rcases step_enc_cases h hstep with ⟨i, hi, rfl⟩ | ⟨hi, rfl⟩ <;> simp [EncodePortAgrees, hi]

theorem decodePortAgrees_step {s t : State} (h : s.invoked = some .dec) (hstep : step s = .next t) :
    DecodePortAgrees t := by
  rcases step_dec_cases h hstep with ⟨i, hi, rfl⟩ | ⟨r, hr, rfl⟩
  · simp [DecodePortAgrees, hi, Instr.cable, Instr.kind, Instr.message, messageOf_delivered]
  · simp [DecodePortAgrees, hr]

theorem nmakePortAgrees_step {s t : State} (h : s.invoked = some .nmake) (hstep : step s = .next t) :
    PortAgrees t .nmake := by
  by_cases hv : s.nmIn.toNat ≤ 15
  · rw [step_nmake_of_le s h hv] at hstep
    cases hstep
    exact ⟨(decide_eq_true hv).symm, fun _ => Nat.mod_eq_of_lt (Nat.lt_succ_of_le hv)⟩
  · rw [step_nmake_of_gt s h (Nat.lt_of_not_le hv)] at hstep
    cases hstep
    exact ⟨(decide_eq_false hv).symm, fun hok => absurd hok Bool.false_ne_true⟩

/-- R48: a step makes the outputs of the port in use agree with its inputs, whatever they were before. -/
theorem portAgrees_step {s t : State} {p : Port} (h : s.invoked = some p) (hstep : step s = .next t) :
    PortAgrees t p := by
  cases p with
  | enc => exact encodePortAgrees_step h hstep
  | dec => exact decodePortAgrees_step h hstep
  | nsplit =>
    rw [step_nsplit s h] at hstep
    cases hstep
    exact append_nibbles s.nsIn
  | ncomb =>
    rw [step_ncomb s h] at hstep
    cases hstep
    exact combine_eq_append s.ncIn.high s.ncIn.low
  | nmake => exact nmakePortAgrees_step h hstep

/-- The agreement of a port reads its own inputs and outputs and the parameters, which an invocation of another port keeps. -/
theorem portAgrees_of_moved {s t : State} {p q : Port} (hmoved : OnlyPortMoved p s t) (hpq : p ≠ q)
    (h : PortAgrees s q) : PortAgrees t q := by
  cases q with
  | enc => simpa only [PortAgrees, EncodePortAgrees, hmoved.encIn, hmoved.encOut hpq] using h
  | dec => simpa only [PortAgrees, DecodePortAgrees, hmoved.params, hmoved.decIn, hmoved.decOut hpq] using h
  | nsplit => simpa only [PortAgrees, hmoved.nsIn, hmoved.nsOut hpq] using h
  | ncomb => simpa only [PortAgrees, hmoved.ncIn, hmoved.ncOut hpq] using h
  | nmake => simpa only [PortAgrees, hmoved.nmIn, hmoved.nmOut hpq] using h

/-- The step lemma of the invariant: it needs the agreement of the other ports only. -/
theorem portsAgree_step {s t : State} {p : Port} (h : s.invoked = some p) (hcanon : PacketsCanonical s)
    (hothers : ∀ q, p ≠ q → PortAgrees s q) (hstep : step s = .next t) : PortsAgree t := by
  refine portsAgree_iff.mpr ⟨packetsCanonical_step h hcanon hstep, fun q => ?_⟩
  by_cases hpq : p = q
  · exact hpq ▸ portAgrees_step h hstep
  · exact portAgrees_of_moved (step_moves_only h hstep) hpq (hothers q hpq)

/-- R18: the port an invocation uses. -/
def usedPort : Invocation → Port
  | .enc _ => .enc
  | .dec _ => .dec
  | .nsplit _ => .nsplit
  | .ncomb _ _ => .ncomb
  | .nmake _ => .nmake

theorem present_invoked (s : State) (inv : Invocation) : (s.present inv).invoked = some (usedPort inv) := by
  cases inv <;> rfl

/-- R252: presenting an invocation leaves the inputs of every other port, so their agreement too. -/
theorem portAgrees_present {s : State} {inv : Invocation} {q : Port} (hq : usedPort inv ≠ q) (h : PortAgrees s q) :
    PortAgrees (s.present inv) q := by
  cases q with
  | enc =>
    cases inv with
    | enc => exact absurd rfl hq
    | _ => exact h
  | dec =>
    cases inv with
    | dec => exact absurd rfl hq
    | _ => exact h
  | nsplit =>
    cases inv with
    | nsplit => exact absurd rfl hq
    | _ => exact h
  | ncomb =>
    cases inv with
    | ncomb => exact absurd rfl hq
    | _ => exact h
  | nmake =>
    cases inv with
    | nmake => exact absurd rfl hq
    | _ => exact h

/-! ### The indicators (R242, R183) -/

/-- The share of the decode port in `IndicatorsLegal`. -/
def DecLegal (d : DecOut) : Prop :=
  (d.ok = true ↔ d.reason = 0#3) ∧ d.reason.toNat ≤ 5 ∧ (d.ok = true → (Kind.ofCode d.kind).isSome = true)

/-- The share of the encode port in `IndicatorsLegal`. -/
def EncLegal (e : EncOut) : Prop := e.ok = true → ∃ i, e.pkt.packet = encode i

theorem indicatorsLegal_iff {s : State} : IndicatorsLegal s ↔ DecLegal s.decOut ∧ EncLegal s.encOut :=
  ⟨fun ⟨hreason, hbound, hkind, hpkt⟩ => ⟨⟨hreason, hbound, hkind⟩, hpkt⟩,
    fun ⟨⟨hreason, hbound, hkind⟩, hpkt⟩ => ⟨hreason, hbound, hkind, hpkt⟩⟩

theorem reasonCode_le_five (r : Reason) : r.code.toNat ≤ 5 := by cases r <;> decide

theorem decLegal_step {s t : State} (h : s.invoked = some .dec) (hstep : step s = .next t) : DecLegal t.decOut := by
  rcases step_dec_cases h hstep with ⟨i, -, rfl⟩ | ⟨r, -, rfl⟩
  · exact ⟨iff_of_true rfl rfl, Nat.zero_le 5, fun _ => by simp⟩
  · exact ⟨iff_of_false Bool.false_ne_true (Reason.code_ne_none r), reasonCode_le_five r,
      fun hok => absurd hok Bool.false_ne_true⟩

theorem encLegal_step {s t : State} (h : s.invoked = some .enc) (hstep : step s = .next t) : EncLegal t.encOut := by
  rcases step_enc_cases h hstep with ⟨i, -, rfl⟩ | ⟨-, rfl⟩
  · exact fun _ => ⟨i, by simp⟩
  · exact fun hok => absurd hok Bool.false_ne_true

theorem indicatorsLegal_step {s t : State} {p : Port} (h : s.invoked = some p) (hs : IndicatorsLegal s)
    (hstep : step s = .next t) : IndicatorsLegal t := by
  have hmoved := step_moves_only h hstep
  obtain ⟨hdec, henc⟩ := indicatorsLegal_iff.mp hs
  refine indicatorsLegal_iff.mpr ⟨?dec, ?enc⟩
  case dec =>
    by_cases hp : p = .dec
    · subst hp
      exact decLegal_step h hstep
    · rwa [hmoved.decOut hp]
  case enc =>
    by_cases hp : p = .enc
    · subst hp
      exact encLegal_step h hstep
    · rwa [hmoved.encOut hp]

/-! ### The obligations -/

/-- Settles O46: the invoked port's outputs are made anew (`portAgrees_step`); the others' inputs and outputs stay, through a
step (`portAgrees_of_moved`) as through a presentation (`portAgrees_present`). -/
theorem portsAgreeIsKept : Obligations.PortsAgreeIsKept := by
  refine ⟨fun s t hs hstep => ?step, fun s t inv hs hinv => ?invocation⟩
  case step =>
    rcases eq_or_invoked_of_step hstep with rfl | ⟨p, h⟩
    · exact hs
    · obtain ⟨hcanon, hports⟩ := portsAgree_iff.mp hs
      exact portsAgree_step h hcanon (fun q _ => hports q) hstep
  case invocation =>
    obtain ⟨hcanon, hports⟩ := portsAgree_iff.mp hs
    exact portsAgree_step (present_invoked s inv) (packetsCanonical_present hcanon inv)
      (fun q hq => portAgrees_present hq (hports q)) hinv

/-- Settles O48: the message port in use shows legal indicators (`decLegal_step`, `encLegal_step`), the others keep theirs;
a presentation moves no output. -/
theorem indicatorsLegalIsKept : Obligations.IndicatorsLegalIsKept := by
  refine ⟨fun s t hs hstep => ?step, fun s inv hs => ?presentation⟩
  case step =>
    rcases eq_or_invoked_of_step hstep with rfl | ⟨p, h⟩
    · exact hs
    · exact indicatorsLegal_step h hs hstep
  case presentation => rwa [indicatorsLegal_iff, present_decOut, present_encOut, ← indicatorsLegal_iff]

/-- Settles O41: the frame of a step (`step_moves_only`), and `step_none`. -/
theorem stepMovesOnlyItsPort : Obligations.StepMovesOnlyItsPort :=
  ⟨fun _ _ _ => step_moves_only, fun _ => step_none⟩

/-- Settles O42: without an invocation the state itself is next, and every port's step answers (`step_returns_held`). -/
theorem everyStepCompletes : Obligations.EveryStepCompletes := by
  intro s
  cases h : s.invoked with
  | none => exact ⟨s, step_none h⟩
  | some p =>
    obtain ⟨t, hstep, -⟩ := step_returns_held h
    exact ⟨t, hstep⟩

/-- Settles O44: both steps return the port's function of the inputs it holds, which the first step keeps
(`held_of_moved`). -/
theorem invocationsAreIdempotent : Obligations.InvocationsAreIdempotent := by
  intro s hs
  obtain ⟨p, h⟩ := Option.ne_none_iff_exists'.mp hs
  obtain ⟨t, hstep, hmoved, hres⟩ := step_returns_held h
  obtain ⟨u, hstep', -, hres'⟩ := step_returns_held (hmoved.invoked.trans h)
  rw [hmoved.params, held_of_moved hmoved] at hres'
  exact ⟨t, u, hstep, hstep', hres.trans hres'.symm, by simp [hres]⟩

/-- Settles O51: the encode port writes its packet whole (`step_enc_pkt_wf`), and no step touches another packet. -/
theorem packetsStayCanonical : Obligations.PacketsStayCanonical := by
  intro s t hs hstep
  rcases eq_or_invoked_of_step hstep with rfl | ⟨p, h⟩
  · exact hs
  · exact packetsCanonical_step h hs hstep

end Sys2Proof.Machine
end

section
/-! PROOFS of the family other, second part: the instructions on the message ports, and the encodings they pass through
(R64 to R67, R162, R180, R200, R206, R209). -/

namespace Sys2Proof

open Machine

/-! ### The descriptor (R64, R65) -/

/-- R180: inputs that spell an instruction have a kind's code, and the instruction is that kind's of their fields. -/
theorem decodeEncIn_eq_some {e : EncIn} {i : Instr} (h : decodeEncIn e = some i) :
    ∃ k : Kind, e.kind = k.code ∧ i = .ofEvent e.cable (messageOf k e.chan e.d1 e.d2) := by
  cases hk : Kind.ofCode e.kind with
  | none => simp [decodeEncIn_of_undefined hk] at h
  | some k =>
    have hcode := (Kind.code_of_ofCode hk).symm
    rw [decodeEncIn_of_kind_eq_code hcode] at h
    exact ⟨k, hcode, (Option.some.inj h).symm⟩

/-- R65: the inputs for an instruction hold the descriptor fields its kind uses. -/
theorem encodeEncIn_messageOf (cn : CableNumber) (k : Kind) (ch : Channel) (a b : U7) :
    encodeEncIn (.ofEvent cn (messageOf k ch a b)) =
      ⟨cn, k.code, if k.isChannelVoice then ch else 0#4, if 1 ≤ k.ndata then a else 0#7,
        if k.ndata = 2 then b else 0#7⟩ := by
  cases k <;> rfl

/-! ### Delivery on the decode port (R206) -/

/-- What R206 says alike of every instruction: its cable, its kind's code and the descriptor fields its message has. -/
theorem deliversMessage (i : Instr) :
    DeliversMessage i i.cable i.kind.code i.message.chan? (raw i.message).payload.d1? (raw i.message).payload.d2? := by
  intro s h
  refine ⟨_, exec_dec i s h, driveDecode_moves_only_dec _ _ s, rfl, rfl, rfl, rfl, fun c hc => ?chan, fun d hd => ?d1,
    fun d hd => ?d2⟩
  case chan =>
    rw [driveDecode_decOut_chan, ← Instr.message, hc]
    rfl
  case d1 =>
    rw [driveDecode_decOut_d1, hd]
    rfl
  case d2 =>
    rw [driveDecode_decOut_d2, hd]
    rfl

/-! ### The table's words (log 12) -/

theorem decodeTableWord_eq_some {nbits w : Nat} {i : Instr} (h : decodeTableWord nbits w = some i) :
    decodePacket .default (.ofTableWord nbits w) = .ok i := by
  unfold decodeTableWord at h
  split at h
  · split at h
    · rename_i j hj
      rw [hj, Option.some.inj h]
    · cases h
  · cases h

/-! ### The system status bytes (R62, R162) -/

/-- R62: a system kind's status byte is `0xF` above its own low nibble. -/
theorem highNibble_statusByte_of_system {k : Kind} (h : k.isChannelVoice = false) (ch : Channel) :
    highNibble (k.statusByte ch) = 0xF#4 := by
  revert h ch
  cases k <;> decide

/-! ### The length of a message (R67, R160) -/

/-- R160: the CIN table lists every kind at its CIN, with the message size and the data bytes of the kind. -/
theorem cinTable_lists_kind (k : Kind) :
    1 + k.ndata ∈ (cinTable (cinOf k)).midiSizes ∧ k ∈ (cinTable (cinOf k)).kinds ∧ k.ndata = cinDataBytes (cinOf k) := by
  cases k <;> decide

/-! ### The obligations -/

/-- Settles O4: the packet is of its kind's row of R69 and holds the message's own fields (`decodePacket_encode`). -/
theorem decodeOfEncodeIsTheInstruction : Obligations.DecodeOfEncodeIsTheInstruction :=
  fun _ i hs _ => decodePacket_encode hs i

/-- Settles O7: what inputs spell is the instruction of their kind and fields (`decodeEncIn_eq_some`), and its inputs hold
those fields again (`encodeEncIn_messageOf`). -/
theorem descriptorRoundTrip : Obligations.DescriptorRoundTrip := by
  refine ⟨decodeEncIn_encodeEncIn, fun e i h => ?_⟩
  obtain ⟨k, hcode, rfl⟩ := decodeEncIn_eq_some h
  rw [encodeEncIn_messageOf, Instr.cable_ofEvent, Instr.kind_ofEvent, messageOf_kind]
  exact ⟨rfl, hcode.symm, fun hcv => if_pos hcv, fun h1 => if_pos h1, fun h2 => if_pos h2⟩

/-- Settles O9: the packet assembled from header and Raw pair is the table's (`assemblePacket_eq_encode`). -/
theorem encodePortSendsTheTablePacket : Obligations.EncodePortSendsTheTablePacket := by
  intro s i h
  refine ⟨_, exec_enc i s h, rfl, ?_, driveEncode_moves_only_enc _ s⟩
  rw [driveEncode_encOut, Memory.packet_ofPacket, assemblePacket_eq_encode]

/-- Settles O1, by running the decoder on the six words. -/
theorem tableWordsDecode : Obligations.TableWordsDecode := by
  unfold Obligations.TableWordsDecode
  decide

/-- Settles O2: on the decode port the step delivers what `exec` delivers; on the encode port it sends the packet of the
table, which is the one `exec` assembles. -/
theorem stepRunsTheDecodedInstruction : Obligations.StepRunsTheDecodedInstruction := by
  refine ⟨fun s i h hi => ?decode, fun s i h hi => ?encode⟩
  case decode => rw [step_dec_delivers h hi, exec_dec i s h]
  case encode => rw [step_enc_sends h hi, exec_enc i s h, assemblePacket_eq_encode]

/-- Settles O3: `withFetchWord` presents the word's packet on the decode port, where O2 applies. -/
theorem fetchWordIsRunNext : Obligations.FetchWordIsRunNext := by
  intro s nbits w i hs hw
  obtain ⟨hrun, -⟩ := stepRunsTheDecodedInstruction
  refine hrun (s.withFetchWord nbits w) i rfl ?_
  have hpacket : (s.withFetchWord nbits w).decIn.packet = .ofTableWord nbits w := Memory.packet_ofPacket _
  rw [hpacket]
  exact hs ▸ decodeTableWord_eq_some hw

/-- Settles O14: each kind by `deliversMessage`. -/
theorem channelVoiceDelivers : Obligations.ChannelVoiceDelivers := fun cn ch a b =>
  ⟨deliversMessage (.noteOff cn ch a b), deliversMessage (.noteOn cn ch a b), deliversMessage (.polyKeyPressure cn ch a b),
    deliversMessage (.controlChange cn ch a b), deliversMessage (.programChange cn ch a),
    deliversMessage (.channelPressure cn ch a), deliversMessage (.pitchBend cn ch a b)⟩

/-- Settles O15: each kind by `deliversMessage`. -/
theorem systemCommonDelivers : Obligations.SystemCommonDelivers := fun cn a b =>
  ⟨deliversMessage (.mtcQuarterFrame cn a), deliversMessage (.songPosition cn a b), deliversMessage (.songSelect cn a),
    deliversMessage (.tuneRequest cn)⟩

/-- Settles O16: each kind by `deliversMessage`. -/
theorem systemRealTimeDelivers : Obligations.SystemRealTimeDelivers := fun cn =>
  ⟨deliversMessage (.timingClock cn), deliversMessage (.start cn), deliversMessage (.continue_ cn),
    deliversMessage (.stop cn), deliversMessage (.activeSensing cn), deliversMessage (.systemReset cn)⟩

/-- Settles O17: every instruction carries its message (`exec_eq_carry`), and elsewhere nothing is carried. -/
theorem messagesMoveOnlyMessagePorts : Obligations.MessagesMoveOnlyMessagePorts := by
  intro s i henc hdec
  rw [exec_eq_carry, carry_other _ _ _ henc hdec]

/-- Settles O22: the Raw encoder's status byte is its kind's (`raw_status_eq_statusByte`), whose high nibble is the CIN of a
channel-voice kind and 0xF of a system kind; 0xF1 and 0xF3 differ. -/
theorem channelVoiceCinIsTheStatusCategory : Obligations.ChannelVoiceCinIsTheStatusCategory := by
  refine ⟨fun m hcv => ?channelVoice, fun m hsys => ?system, fun a b => ⟨rfl, ?shared⟩⟩
  case channelVoice =>
    rw [← highNibble_eq_extract, raw_status_eq_statusByte, Kind.statusByte_of_channelVoice hcv, highNibble_append]
  case system => rw [← highNibble_eq_extract, raw_status_eq_statusByte, highNibble_statusByte_of_system hsys]
  case shared =>
    have hdiffer : 0xF1#8 ≠ 0xF3#8 := by decide
    exact hdiffer

/-- Settles O24: the payload has as many bytes as the kind (`raw_payload_length`), and the CIN table has a row for each kind
(`cinTable_lists_kind`). -/
theorem messageLengthFollowsFromTheCin : Obligations.MessageLengthFollowsFromTheCin := by
  intro m
  rw [raw_payload_length]
  exact cinTable_lists_kind m.kind

end Sys2Proof
end

section
/-! PROOFS of the family other, third part: the listing lines (R72). A line is checked as a whole (`Line.wellFormed`); what it
assembles to when the check passes, and which error it is when it fails, are one lemma each. The check of an ENC line is
read field by field against the kind's list of bounds. -/

namespace Sys2Proof

open Machine

/-! ### What a line assembles to -/

/-- R65, R66, R72: the invocation that a line's numbers denote, each cut to its width. -/
def Line.invocation : Line → Invocation
  | .enc cable k fields =>
    .enc ⟨BitVec.ofNat 4 cable, k.code, (descriptorFields k fields).1, (descriptorFields k fields).2.1,
      (descriptorFields k fields).2.2⟩
  | .dec b0 b1 b2 b3 => .dec ⟨BitVec.ofNat 8 b0, BitVec.ofNat 8 b1, BitVec.ofNat 8 b2, BitVec.ofNat 8 b3⟩
  | .nsplit b => .nsplit (BitVec.ofNat 8 b)
  | .ncomb high low => .ncomb (BitVec.ofNat 4 high) (BitVec.ofNat 4 low)
  | .nmake v => .nmake (BitVec.ofNat 8 v)

/-- R72: an ENC line has its kind's number of fields; the other lines have no fields to count. -/
def Line.countRight : Line → Prop
  | .enc _ k fields => fields.length = k.fieldCount
  | .dec .. | .nsplit _ | .ncomb .. | .nmake _ => True

theorem enc_wellFormed_iff {cable : Nat} {k : Kind} {fields : List Nat} :
    (Line.enc cable k fields).wellFormed = true ↔
      cable < 16 ∧ fields.length = k.fieldCount ∧ fieldsFit k fields = true := by
  simp [Line.wellFormed, and_assoc]

theorem assembleLine_of_wellFormed {l : Line} (h : l.wellFormed = true) : assembleLine l = .ok l.invocation := by
  cases l with
  | enc cable k fields =>
    obtain ⟨-, hcount, -⟩ := enc_wellFormed_iff.mp h
    simp [assembleLine, h, hcount, Line.invocation]
  | _ => simp [assembleLine, h, Line.invocation]

theorem assembleLine_of_not_wellFormed {l : Line} (hcount : l.countRight) (h : ¬l.wellFormed = true) :
    assembleLine l = .error .fieldWidth := by
  cases l with
  | enc cable k fields =>
    have hlength : fields.length = k.fieldCount := hcount
    simp [assembleLine, h, hlength]
  | _ => simp [assembleLine, h]

theorem assembleLine_enc_of_count {k : Kind} {fields : List Nat} (h : fields.length ≠ k.fieldCount) (cable : Nat) :
    assembleLine (.enc cable k fields) = .error .fieldCount := if_pos h

/-- R72, U14: the lines that are an invocation are the well-formed ones. -/
theorem assembles_iff_wellFormed (l : Line) : (∃ inv, assembleLine l = .ok inv) ↔ l.wellFormed = true := by
  refine ⟨fun ⟨inv, hinv⟩ => ?_, fun h => ⟨_, assembleLine_of_wellFormed h⟩⟩
  refine Decidable.of_not_not fun h => ?_
  by_cases hcount : l.countRight
  · cases hinv.symm.trans (assembleLine_of_not_wellFormed hcount h)
  · cases l with
    | enc cable k fields => cases hinv.symm.trans (assembleLine_enc_of_count hcount cable)
    | _ => exact hcount trivial

/-! ### The fields of an ENC line against their bounds -/

/-- R72: the fields of a kind's line in order, each as the first number too large for it. -/
def Kind.fieldBounds (k : Kind) : List Nat := (if k.isChannelVoice then [16] else []) ++ List.replicate k.ndata 128

theorem Kind.fieldBounds_length (k : Kind) : k.fieldBounds.length = k.fieldCount := by
  cases k <;> rfl

theorem forall_zip_replicate_lt {ds : List Nat} {n : Nat} (h : ds.length = n) (bound : Nat) :
    (∀ x ∈ ds.zip (List.replicate n bound), x.1 < x.2) ↔ ∀ d ∈ ds, d < bound := by
  subst h
  induction ds with
  | nil => simp
  | cons d ds ih => simpa [List.replicate_succ] using fun _ => ih

/-- R72: with the right number of fields, they fit when each is below its bound. -/
theorem fieldsFit_iff {k : Kind} {fields : List Nat} (h : fields.length = k.fieldCount) :
    fieldsFit k fields = true ↔ ∀ x ∈ fields.zip k.fieldBounds, x.1 < x.2 := by
  have hdata := lineData_length h
  cases hcv : k.isChannelVoice with
  | false =>
    simp only [lineData, hcv, Bool.false_eq_true, if_false] at hdata
    rw [Kind.fieldBounds, hcv, if_neg Bool.false_ne_true, List.nil_append, forall_zip_replicate_lt hdata]
    simp [fieldsFit, hcv]
  | true =>
    cases fields with
    | nil =>
      rw [List.length_nil, Kind.fieldCount, if_pos hcv] at h
      omega
    | cons chan ds =>
      simp only [lineData, hcv, if_true, List.drop_succ_cons, List.drop_zero] at hdata
      rw [Kind.fieldBounds, if_pos hcv, List.singleton_append, List.zip_cons_cons, List.forall_mem_cons,
        forall_zip_replicate_lt hdata]
      simp [fieldsFit, hcv]

/-- R72, U14: the outcomes of an ENC line. -/
theorem assembleLine_enc_outcomes (k : Kind) (cable : Nat) (fields : List Nat) :
    (fields.length ≠ k.fieldBounds.length → assembleLine (.enc cable k fields) = .error .fieldCount) ∧
      (fields.length = k.fieldBounds.length → ¬(cable < 16 ∧ ∀ x ∈ fields.zip k.fieldBounds, x.1 < x.2) →
        assembleLine (.enc cable k fields) = .error .fieldWidth) ∧
      (fields.length = k.fieldBounds.length → cable < 16 → (∀ x ∈ fields.zip k.fieldBounds, x.1 < x.2) →
        ∃ e, assembleLine (.enc cable k fields) = .ok (.enc e)) := by
  rw [Kind.fieldBounds_length]
  refine ⟨fun hn => assembleLine_enc_of_count hn cable, fun hcount hwidth => ?_, fun hcount hcable hfit => ?_⟩
  · refine assembleLine_of_not_wellFormed hcount fun hwf => hwidth ?_
    obtain ⟨hcable, -, hfit⟩ := enc_wellFormed_iff.mp hwf
    exact ⟨hcable, (fieldsFit_iff hcount).mp hfit⟩
  · exact ⟨_, assembleLine_of_wellFormed (enc_wellFormed_iff.mpr ⟨hcable, hcount, (fieldsFit_iff hcount).mpr hfit⟩)⟩

/-- The outcomes of a line without fields to count, whose check is `widths`. -/
theorem assembleLine_outcomes {l : Line} {widths : Prop} (hcount : l.countRight)
    (h : l.wellFormed = true ↔ widths) :
    (widths → assembleLine l = .ok l.invocation) ∧ (¬widths → assembleLine l = .error .fieldWidth) :=
  ⟨fun hw => assembleLine_of_wellFormed (h.mpr hw), fun hw => assembleLine_of_not_wellFormed hcount (hw ∘ h.mp)⟩

/-! ### The line of a message (R65, R72) -/

/-- R72: the fields of a kind's line, in order. -/
def messageFields (k : Kind) (chan : Channel) (d1 d2 : U7) : List Nat :=
  (if k.isChannelVoice then [chan.toNat] else []) ++ [d1.toNat, d2.toNat].take k.ndata

theorem messageFields_length (k : Kind) (chan : Channel) (d1 d2 : U7) :
    (messageFields k chan d1 d2).length = k.fieldCount := by
  cases k <;> rfl

theorem fieldsFit_messageFields (k : Kind) (chan : Channel) (d1 d2 : U7) :
    fieldsFit k (messageFields k chan d1 d2) = true := by
  have hchan : chan.toNat < 16 := chan.isLt
  have h1 : d1.toNat < 128 := d1.isLt
  have h2 : d2.toNat < 128 := d2.isLt
  cases hcv : k.isChannelVoice <;> rcases k.ndata_cases with hn | hn | hn <;>
    simp [fieldsFit, messageFields, hcv, hn, hchan, h1, h2]

theorem descriptorFields_messageFields (k : Kind) (chan : Channel) (d1 d2 : U7) :
    descriptorFields k (messageFields k chan d1 d2) =
      (if k.isChannelVoice then chan else 0#4, if 1 ≤ k.ndata then d1 else 0#7, if k.ndata = 2 then d2 else 0#7) := by
  cases hcv : k.isChannelVoice <;> rcases k.ndata_cases with hn | hn | hn <;>
    simp [descriptorFields, messageFields, hcv, hn]

/-! ### The obligations -/

/-- Settles O52: each row of the list is a kind with its bounds, so the ENC lines are `assembleLine_enc_outcomes`; the other
lines are their check (`assembleLine_outcomes`). -/
theorem linesAssembleExactlyWhenWellFormed : Obligations.LinesAssembleExactlyWhenWellFormed := by
  refine ⟨fun row hrow cable fields => ?enc, fun b0 b1 b2 b3 => ?dec, fun b => ?nsplit, fun h l => ?ncomb,
    fun v => ?nmake, assembles_iff_wellFormed⟩
  case enc =>
    have hbounds : row.2 = row.1.fieldBounds := by
      revert row
      decide
    rw [hbounds]
    exact assembleLine_enc_outcomes row.1 cable fields
  case dec => exact assembleLine_outcomes trivial (by simp [Line.wellFormed])
  case nsplit =>
    rw [← Nat.not_lt]
    exact assembleLine_outcomes trivial (by simp [Line.wellFormed])
  case ncomb => exact assembleLine_outcomes trivial (by simp [Line.wellFormed])
  case nmake =>
    rw [← Nat.not_lt]
    exact assembleLine_outcomes trivial (by simp [Line.wellFormed])

/-- Settles O53: the line is well formed, since every field is below its width, and its descriptor fields are the ones the
instruction's inputs hold (`descriptorFields_messageFields`, `encodeEncIn_messageOf`). -/
theorem encLinesSpellTheirMessage : Obligations.EncLinesSpellTheirMessage := by
  intro cn k chan d1 d2
  have hwf : (Line.enc cn.toNat k (messageFields k chan d1 d2)).wellFormed = true :=
    enc_wellFormed_iff.mpr ⟨cn.isLt, messageFields_length k chan d1 d2, fieldsFit_messageFields k chan d1 d2⟩
  refine (assembleLine_of_wellFormed hwf).trans ?_
  rw [Line.invocation, descriptorFields_messageFields, encodeEncIn_messageOf, BitVec.ofNat_toNat, BitVec.setWidth_eq]

end Sys2Proof
end

section
/-! PROOFS of the family other, fourth part: reset (R8, R9, R36, R280, R281). After reset all inputs are 0, a packet whose CIN
has no category; the reset input moves no input, output or parameter. -/

namespace Sys2Proof

open Machine

/-! ### The reset state for any parameters -/

/-- R208, R202: the verdict on the packet of zeros. -/
theorem decodePacket_zeros (c : Params) :
    decodePacket c ⟨0x00#8, 0x00#8, 0x00#8, 0x00#8⟩ = .error (if c.decodeStub then .stub else .cin) := by
  cases hs : c.decodeStub with
  | true => rw [decodePacket_stub hs, if_pos rfl]
  | false =>
    rw [decodePacket_no_category hs (.inl (by decide))]
    rfl

/-- R36: the indicator at reset is the code of the verdict on the packet of zeros. -/
theorem resetFor_reason (c : Params) : (State.resetFor c).decOut.reason = if c.decodeStub then 1#3 else 2#3 := rfl

theorem decodePortAgrees_resetFor (c : Params) : DecodePortAgrees (State.resetFor c) := by
  have hd : decodePacket (State.resetFor c).params (State.resetFor c).decIn.packet =
      .error (if c.decodeStub then .stub else .cin) := decodePacket_zeros c
  simp only [DecodePortAgrees, hd, resetFor_reason]
  cases c.decodeStub <;> exact ⟨rfl, rfl⟩

theorem portsAgree_resetFor (c : Params) : PortsAgree (State.resetFor c) where
  canonical := ⟨rfl, rfl⟩
  encode := rfl
  decode := decodePortAgrees_resetFor c
  nibbles :=
    have hzeros : 0#4 ++ 0#4 = 0#8 := by decide
    ⟨hzeros, hzeros.symm, rfl, fun _ => rfl⟩

theorem indicatorsLegal_resetFor (c : Params) : IndicatorsLegal (State.resetFor c) := by
  refine indicatorsLegal_iff.mpr ⟨⟨iff_of_false Bool.false_ne_true ?reason, ?bound, fun hok => ?kind⟩, fun hok => ?packet⟩
  case reason =>
    rw [resetFor_reason]
    cases c.decodeStub <;> decide
  case bound =>
    rw [resetFor_reason]
    cases c.decodeStub <;> decide
  case kind => exact absurd hok Bool.false_ne_true
  case packet => exact absurd hok Bool.false_ne_true

/-! ### The reset input -/

theorem portsAgree_resetInput {s : State} (h : PortsAgree s) : PortsAgree s.resetInput :=
  ⟨h.canonical, h.encode, h.decode, h.nibbles⟩

theorem indicatorsLegal_resetInput {s : State} (h : IndicatorsLegal s) : IndicatorsLegal s.resetInput :=
  ⟨h.reasonNone, h.reasonBound, h.kindDefined, h.packetFramed⟩

theorem step_params {s t : State} (hstep : step s = .next t) : t.params = s.params := by
  rcases eq_or_invoked_of_step hstep with rfl | ⟨p, h⟩
  · rfl
  · exact (step_moves_only h hstep).params

/-- R161, R181: an encode of an instruction sends the CIN of its kind, from whatever state. -/
theorem invoke_enc_sends_cin (s : State) (i : Instr) :
    ∃ t, invoke s (.enc (encodeEncIn i)) = .next t ∧ t.encOut.ok = true ∧
      (t.encOut.pkt.read 0).extractLsb' 0 4 = cinOf i.kind := by
  have hsent := step_enc_sends (present_enc_invoked s _) (decodeEncIn_encodeEncIn i)
  rw [← assemblePacket_eq_encode] at hsent
  exact ⟨_, hsent, rfl, sent_cin i _⟩

/-! ### The obligations -/

/-- Settles O54: nothing writes the parameters (`step_params`), every transcript is the ports' pure functions of them
(`transcriptIsThePurePortFunctions`), and an encode sends the table's CIN from every state (`invoke_enc_sends_cin`). -/
theorem parametersAndCinTableHoldAcrossReset : Obligations.ParametersAndCinTableHoldAcrossReset := by
  refine ⟨resetFor_params, resetInput_params, present_params, fun _ _ => step_params, fun s invs => ?transcripts,
    fun s => invoke_enc_sends_cin s.resetInput⟩
  case transcripts =>
    rw [transcriptIsThePurePortFunctions s.resetInput, transcriptIsThePurePortFunctions s, resetInput_params]

/-- Settles O55: the reset outputs are those of the all-zero inputs under the configured parameters
(`portsAgree_resetFor`, `indicatorsLegal_resetFor`), and the reset input moves none of them. -/
theorem everyInstanceAgreesAfterReset : Obligations.EveryInstanceAgreesAfterReset :=
  ⟨fun c => ⟨portsAgree_resetFor c, indicatorsLegal_resetFor c, resetFor_reason c⟩, fun _ => portsAgree_resetInput,
    fun _ => indicatorsLegal_resetInput⟩

/-- Settles O47: `State.reset` is `State.resetFor` of the default parameters. -/
theorem portsAgreeAtReset : Obligations.PortsAgreeAtReset := portsAgree_resetFor .default

/-- Settles O49: `State.reset` is `State.resetFor` of the default parameters. -/
theorem indicatorsLegalAtReset : Obligations.IndicatorsLegalAtReset := indicatorsLegal_resetFor .default

/-- Settles O50: the reset state holds `Params.default`, whose values are the defaults of R8 and R9. -/
theorem parametersHaveTheirDefaultsAtReset : Obligations.ParametersHaveTheirDefaultsAtReset :=
  ⟨congrArg Params.decodeStub reset_params, congrArg Params.padCheck reset_params⟩

end Sys2Proof
end
